-- ==== Sys2Proof/Word.lean ====
section
/-! DEFINITION. The word types of the MFC and their plainest arithmetic (00_scope.md R5): every value is an unsigned bit
vector of a stated width, and no value is signed. -/

namespace Sys2Proof

/-- A byte of a frame, a counter or an 8-bit sum (R5). -/
abbrev Byte := BitVec 8

/-- A 32-bit word of the host port, `DATA_W = 32` (R3, R41). -/
abbrev Word := BitVec 32

/-- The word address `paddr[8:2]` of the host port, `WADDR_W = 7` (R3, R41). The byte offset is four times it. -/
abbrev WordAddr := BitVec 7

/-- A 4-bit value: the `OP` and `A` fields of a CMD word (R55), the interrupt bits (R19). -/
abbrev Nibble := BitVec 4

end Sys2Proof
end

