-- ==== Sys2Proof/Config.lean ====
section
/-! DEFINITION. The constants the source fixes (00_scope.md R2), the implementation parameters of this MFC (R3), and the
values the spec leaves open (R4, 93_implementation_defined.md U2, U7) as constants without a body. -/

namespace Sys2Proof

/-- The sync byte `SYNC = 0x55` (R2). -/
def Config.sync : Byte := 0x55

/-- The response header length `HDR_LEN = 6` (R2). -/
def Config.hdrLen : Nat := 6

/-- The size of a raw record, `REC_SIZE = 10` (R2). -/
def Config.recSize : Nat := 10

/-- The offset of record slot 0, `REC_BASE = 6` (R2). -/
def Config.recBase : Nat := 6

/-- Records per memory-block response, `NREC_SEG = 14` (R2). -/
def Config.nrecSeg : Nat := 14

/-- The memory-block response length, `SEG_LEN = 147` (R2). -/
def Config.segLen : Nat := 147

/-- The frame buffer's depth, `FB_DEPTH = 256` (R3). -/
def Config.fbDepth : Nat := 256

/-- The smallest legal expected length, `MIN_LEN = 7` (R3). -/
def Config.minLen : Nat := 7

/-- The largest legal expected length, `MAX_LEN = 255` (R3). -/
def Config.maxLen : Nat := 255

/-- The value at which the counters saturate, `CNT_MAX = 255` (R3). -/
def Config.cntMax : Nat := 255

/-- The number of entries of the operation length table, `NOPS = 9` (R3). -/
def Config.nops : Nat := 9

/-- FREE VALUE (log entry 1). The content of frame buffer byte `i` that nothing has written since reset number `epoch`:
unspecified by R16, R126 and U2. -/
opaque Config.fbUnspecified (epoch i : Nat) : Byte

/-- OPEN parameter `TIMEOUT_BUDGET` (R4, D14; log entry 4). No rule of the MFC reads it: the timeout is an input. -/
opaque Config.timeoutBudget : Nat

/-- OPEN parameter `LENRES(op)`, the length-or-reserved byte of a request (R4, D36; log entry 5): host data. -/
opaque Config.lenRes (op : Nibble) : Byte

/-- OPEN parameter `CLASS(op)`, the command-class byte of a request (R4, D36; log entry 5): host data. -/
opaque Config.classByte (op : Nibble) : Byte

/-- OPEN parameter `SUBCMD(op)`, the subcommand byte of a request (R4, D36; log entry 5): host data. -/
opaque Config.subCmd (op : Nibble) : Byte

end Sys2Proof
end

