-- ==== Sys2Proof/Syntax.lean ====
section
/-! DEFINITION. What the MFC is told to do: the values its mode and error fields take, what its ports carry (00_scope.md
R6, 20_memory.md R41, 30_encoding.md R62), and `Instr`, one constructor per row of spec/opcode_table.json. -/

namespace Sys2Proof

/-- The sync modes of CTRL.SYNC_MODE (10_state.md R22). The code 0b11 is never held. -/
inductive SyncMode where
  /-- 0b00 NONE: the first byte after arming starts the frame, whatever its value. -/
  | none
  /-- 0b01 STRICT: the first byte after arming must be 0x55. -/
  | strict
  /-- 0b10 HUNT: bytes before the first 0x55 are discarded. -/
  | hunt
  deriving DecidableEq, Repr

/-- The receiver's states (10_state.md R9). The codes 5, 6 and 7 are never held. -/
inductive RxState where
  /-- 0 IDLE: receiver off. -/
  | idle
  /-- 1 HUNT: armed, waiting for the first frame byte. -/
  | hunt
  /-- 2 ACCUM: collecting bytes. -/
  | accum
  /-- 3 DONE: a complete frame with a good checksum is in FB. -/
  | done
  /-- 4 ERROR: the frame ended in a receive error. -/
  | error
  deriving DecidableEq, Repr

/-- The receive error codes (60_exceptions.md R108). The codes 4 to 7 are never produced. -/
inductive RxErr where
  /-- 0: the receiver is not in ERROR. -/
  | none
  /-- 1 CHECKSUM. -/
  | checksum
  /-- 2 INCOMPLETE. -/
  | incomplete
  /-- 3 SYNC. -/
  | sync
  deriving DecidableEq, Repr

/-- The command error codes (60_exceptions.md R109). The codes 8 to 15 are never produced. -/
inductive CmdErr where
  /-- 0 OK. -/
  | ok
  /-- 1 BAD_CMD. -/
  | badCmd
  /-- 2 BAD_ARG. -/
  | badArg
  /-- 3 LEN_RANGE. -/
  | lenRange
  /-- 4 TX_SEQ. -/
  | txSeq
  /-- 5 TX_OVERRUN. -/
  | txOverrun
  /-- 6 UNVERIFIED. -/
  | unverified
  /-- 7 REC_RANGE. -/
  | recRange
  deriving DecidableEq, Repr

/-- One host access, `psel = 1` at a clock edge (20_memory.md R41): always a whole aligned 32-bit word. -/
inductive Access where
  /-- `BusRead(4 * addr)`: `pwrite = 0`. -/
  | read (addr : WordAddr)
  /-- `BusWrite(4 * addr, v)`: `pwrite = 1`. -/
  | write (addr : WordAddr) (v : Word)
  deriving DecidableEq, Repr

/-- One atomic event of an agent, as its port carries it (00_scope.md R6, 30_encoding.md R62). -/
inductive PortEvent where
  /-- A host access. -/
  | access (a : Access)
  /-- `RxByte(b)`: `rx_valid = 1` with `rx_data = b`. -/
  | rxByte (b : Byte)
  /-- `TxTake`: `tx_valid = 1` and `tx_ready = 1`. -/
  | txTake
  /-- `RxTimeout`: `rx_timeout = 1`. -/
  | rxTimeout
  /-- `Reset`: `rst = 1`. -/
  | reset
  deriving DecidableEq, Repr

/-- What every input port carries at one clock edge (10_state.md R39). At most one access and at most one received byte
can stand in it (R41, R62). -/
structure PortCycle where
  /-- `rst`. -/
  rst : Bool
  /-- The host access, if `psel = 1`. -/
  access : Option Access
  /-- `tx_ready`. -/
  txReady : Bool
  /-- `rx_data`, if `rx_valid = 1`. -/
  rxData : Option Byte
  /-- `rx_timeout`. -/
  rxTimeout : Bool
  deriving DecidableEq, Repr

/-- A clock edge at which no port carries anything. -/
def PortCycle.idle : PortCycle :=
  { rst := false, access := none, txReady := false, rxData := none, rxTimeout := false }

/-- The clock edge that carries one event and nothing else. -/
def PortCycle.ofEvent : PortEvent → PortCycle
  | .access a => { PortCycle.idle with access := some a }
  | .rxByte b => { PortCycle.idle with rxData := some b }
  | .txTake => { PortCycle.idle with txReady := true }
  | .rxTimeout => { PortCycle.idle with rxTimeout := true }
  | .reset => { PortCycle.idle with rst := true }

/-- The four operation formats of 30_encoding.md section 1 (the table's "format" column). -/
inductive Format where
  | cmd
  | regw
  | regr
  | port
  deriving DecidableEq, Repr

/-- The operations of the MFC, one constructor per row of spec/opcode_table.json, in the table's order. `v` is the whole
32-bit word written, `a` and `k` the CMD word's `A` field, `z` its `Z` field, `op` its `OP` field (30_encoding.md R55). -/
inductive Instr where
  /-- NOP (R98). -/
  | nop
  /-- RX_ARM (R80). -/
  | rxArm
  /-- RX_ARM_OP (R81); `a` is the operation index. -/
  | rxArmOp (a : Nibble)
  /-- RX_CLEAR (R82). -/
  | rxClear
  /-- RX_TIMEOUT, the command (R83). -/
  | rxTimeoutCmd
  /-- TX_START (R73). -/
  | txStart
  /-- TX_END (R75). -/
  | txEnd
  /-- TX_ABORT (R76). -/
  | txAbort
  /-- CK_CLEAR (R68). -/
  | ckClear
  /-- DECODE (R95); `k` is the record slot. -/
  | decode (k : Nibble)
  /-- SOFT_RESET (R99). -/
  | softReset
  /-- RESERVED_A: opcode 0xA (R58). -/
  | reservedA (z : BitVec 24) (a : Nibble)
  /-- RESERVED_B: opcode 0xB (R58). -/
  | reservedB (z : BitVec 24) (a : Nibble)
  /-- RESERVED_C: opcode 0xC (R58). -/
  | reservedC (z : BitVec 24) (a : Nibble)
  /-- RESERVED_D: opcode 0xD (R58). -/
  | reservedD (z : BitVec 24) (a : Nibble)
  /-- RESERVED_E: opcode 0xE (R58). -/
  | reservedE (z : BitVec 24) (a : Nibble)
  /-- CMD_NONZERO_Z: every other malformed CMD word (R58). -/
  | cmdNonzeroZ (z : BitVec 24) (a : Nibble) (op : Nibble)
  /-- WR_CTRL (R100). -/
  | wrCtrl (v : Word)
  /-- WR_RX_LEN (R101). -/
  | wrRxLen (v : Word)
  /-- WR_TX_DATA (R74). -/
  | wrTxData (v : Word)
  /-- WR_CK_DATA (R67). -/
  | wrCkData (v : Word)
  /-- WR_INT_PEND (R103). -/
  | wrIntPend (v : Word)
  /-- WR_INT_EN (R102). -/
  | wrIntEn (v : Word)
  /-- WR_IGNORED (R105): a write to any other offset. -/
  | wrIgnored (addr : WordAddr) (v : Word)
  /-- RD_REG (R104): a read at 0x000..0x0FC other than CK_INFO. -/
  | rdReg (addr : WordAddr)
  /-- RD_CK_INFO (R69). -/
  | rdCkInfo
  /-- RD_FB (R43); `j` is the FB window's word index. -/
  | rdFb (j : BitVec 6)
  /-- RXBYTE_DROP (R84). -/
  | rxbyteDrop (b : Byte)
  /-- RXBYTE_HUNT_NONE (R85). -/
  | rxbyteHuntNone (b : Byte)
  /-- RXBYTE_HUNT_STRICT (R86). -/
  | rxbyteHuntStrict (b : Byte)
  /-- RXBYTE_HUNT_HUNT (R87). -/
  | rxbyteHuntHunt (b : Byte)
  /-- RXBYTE_ACCUM (R88). -/
  | rxbyteAccum (b : Byte)
  /-- TXTAKE (R77). -/
  | txTake
  /-- RXTIMEOUT, the port event (R89). -/
  | rxTimeoutEvt
  /-- RESET, the port event (R125). -/
  | reset
  deriving DecidableEq, Repr

/-- The table's "format" column. -/
def Instr.format : Instr → Format
  | .nop => .cmd
  | .rxArm => .cmd
  | .rxArmOp _ => .cmd
  | .rxClear => .cmd
  | .rxTimeoutCmd => .cmd
  | .txStart => .cmd
  | .txEnd => .cmd
  | .txAbort => .cmd
  | .ckClear => .cmd
  | .decode _ => .cmd
  | .softReset => .cmd
  | .reservedA _ _ => .cmd
  | .reservedB _ _ => .cmd
  | .reservedC _ _ => .cmd
  | .reservedD _ _ => .cmd
  | .reservedE _ _ => .cmd
  | .cmdNonzeroZ _ _ _ => .cmd
  | .wrCtrl _ => .regw
  | .wrRxLen _ => .regw
  | .wrTxData _ => .regw
  | .wrCkData _ => .regw
  | .wrIntPend _ => .regw
  | .wrIntEn _ => .regw
  | .wrIgnored _ _ => .regw
  | .rdReg _ => .regr
  | .rdCkInfo => .regr
  | .rdFb _ => .regr
  | .rxbyteDrop _ => .port
  | .rxbyteHuntNone _ => .port
  | .rxbyteHuntStrict _ => .port
  | .rxbyteHuntHunt _ => .port
  | .rxbyteAccum _ => .port
  | .txTake => .port
  | .rxTimeoutEvt => .port
  | .reset => .port

end Sys2Proof
end

