-- ==== Sys2Proof/Machine/State.lean ====
section
/-! DEFINITION. The state of the MFC: the record of 10_state.md R8, element by element, and four fields of the model's own
(what the ports will carry, what the MFC handed out, and the index of FB's free content). The reasons a step can stop. -/

namespace Sys2Proof.Machine

/-- The frame buffer FB as (index, byte) cells (R16). An index that is not listed has not been written since the last
reset: R126 leaves its content unspecified. -/
abbrev Memory := List Host.Cell

/-- The indices after `lo` rise strictly and lie below `FB_DEPTH` (R3). -/
def Memory.risesFrom (lo : Nat) : Memory → Bool
  | [] => true
  | (a, _) :: m => decide (lo ≤ a) && decide (a < Config.fbDepth) && Memory.risesFrom (a + 1) m

/-- The canonical form: indices strictly rising and below 256. An unlisted index has no byte of its own, so no listed byte
can equal it, and equal contents are equal lists. -/
def Memory.wf (m : Memory) : Bool := Memory.risesFrom 0 m

/-- The machine's state. The first 31 fields are the record of R8, of which R8 says "Nothing else is state"; the last four
are the model's own (log entries 1 to 3). -/
structure State where
  /-- `sync_mode`, CTRL[1:0] (R22). -/
  syncMode : SyncMode
  /-- `rx_len`, RX_LEN[7:0] (R25). -/
  rxLen : Byte
  /-- `rx_state`, STATUS[2:0] (R9). -/
  rxState : RxState
  /-- `rx_err`, STATUS[6:4] (R10). -/
  rxErr : RxErr
  /-- `act_len`, RX_INFO[15:8]: the expected length latched at arm time (R11). -/
  actLen : Byte
  /-- `act_mode`, STATUS[13:12]: the sync mode latched at arm time (R11). -/
  actMode : SyncMode
  /-- `rx_count`, RX_INFO[7:0] (R12). -/
  rxCount : Byte
  /-- `rx_sum`, RX_INFO[23:16] (R13). -/
  rxSum : Byte
  /-- `rx_skip`, RX_INFO[31:24] (R14). -/
  rxSkip : Byte
  /-- `rx_drop`, STATUS[11] (R15). -/
  rxDrop : Bool
  /-- `FB[0..255]`, the window 0x100..0x1FC (R16). -/
  fb : Memory
  /-- `tx_open`, STATUS[8] (R17). -/
  txOpen : Bool
  /-- `tx_busy`, STATUS[9] (R17). -/
  txBusy : Bool
  /-- `tx_hold`, TX_INFO[23:16] (R17). -/
  txHold : Byte
  /-- `tx_sum`, TX_INFO[7:0] (R17). -/
  txSum : Byte
  /-- `tx_cnt`, TX_INFO[15:8] (R17). -/
  txCnt : Byte
  /-- `ck_sum`, CK_INFO[7:0] (R18). -/
  ckSum : Byte
  /-- `ck_cnt`, CK_INFO[31:24] (R18). -/
  ckCnt : Byte
  /-- `int_pend`, INT_PEND[3:0] (R19). -/
  intPend : Nibble
  /-- `int_en`, INT_EN[3:0] (R19). -/
  intEn : Nibble
  /-- `cmd_err`, STATUS[19:16] (R20). -/
  cmdErr : CmdErr
  /-- `rec_valid`, STATUS[10] (R21). -/
  recValid : Bool
  /-- `rec_idx`, STATUS[27:24] (R21). -/
  recIdx : Nibble
  /-- `rec_sec`, REC_A[7:0] (R33). -/
  recSec : BitVec 8
  /-- `rec_min`, REC_A[13:8] (R33). -/
  recMin : BitVec 6
  /-- `rec_hour`, REC_A[20:16] (R33). -/
  recHour : BitVec 5
  /-- `rec_day`, REC_A[28:24] (R33). -/
  recDay : BitVec 5
  /-- `rec_mon`, REC_B[4:0] (R34). -/
  recMon : BitVec 5
  /-- `rec_dow`, REC_B[10:8] (R34). -/
  recDow : BitVec 3
  /-- `rec_year`, REC_B[31:16] (R34). -/
  recYear : BitVec 16
  /-- `rec_val`, REC_VALUE[31:0] (R35). -/
  recVal : BitVec 32
  /-- MODEL: the number of resets so far; it indexes the free content of FB (log entry 1). -/
  fbEpoch : Nat
  /-- MODEL: what the input ports carry at the clock edges still to come, oldest first (log entry 2). R8 calls them inputs. -/
  inputs : List PortCycle
  /-- MODEL: `tx_out`, the bytes the transmit sink took, in order (R77, R139; log entry 3). -/
  txOut : List Byte
  /-- MODEL: the words the host's reads returned on `prdata`, in order (R41, R104; log entry 3). -/
  rdOut : List Word
  deriving DecidableEq, Repr

/-- The state after reset: every element of R8 at its stated reset value (R125), FB unspecified (R126), nothing taken or
read yet, and no input given. -/
def State.reset : State :=
  { syncMode := .strict, rxLen := 0, rxState := .idle, rxErr := .none, actLen := 0, actMode := .strict, rxCount := 0
    rxSum := 0, rxSkip := 0, rxDrop := false, fb := [], txOpen := false, txBusy := false, txHold := 0, txSum := 0
    txCnt := 0, ckSum := 0, ckCnt := 0, intPend := 0, intEn := 0, cmdErr := .ok, recValid := false, recIdx := 0
    recSec := 0, recMin := 0, recHour := 0, recDay := 0, recMon := 0, recDow := 0, recYear := 0, recVal := 0
    fbEpoch := 0, inputs := [], txOut := [], rdOut := [] }

/-- The faults that stop the machine: there are none. R107: "No error stops the MFC". Every error of the spec is a next
state (`raiseCmdError`, `raiseRxError`). -/
inductive Fault where
  deriving DecidableEq, Repr

/-- The reasons a term of `Instr` has no meaning in a state. No step answers with one: the decoder and the choice of the
next event never give such a term (log entry 9). -/
inductive Refusal where
  /-- An arm of `exec` that has no meaning yet; raised by `exec` only. Safe. No arm of this model raises it. -/
  | notModelled (mnemonic : String)
  /-- An RXBYTE row of the table given to a state whose `rx_state` or `act_mode` selects another row (R84 to R88): the byte
  is then that other row's event. Raised by the five RXBYTE meanings. Safe. -/
  | rowNotSelected
  /-- TXTAKE given to a state with `tx_busy = 0`: "a clock edge with `tx_ready = 1` and `tx_valid = 0` is no event" (R62),
  "requires tx_busy == 1" (R77). Raised by `execTxTake`. Safe. -/
  | takeNotEnabled
  deriving DecidableEq, Repr

/-- One step's answer. -/
abbrev Result := Host.Outcome State Fault Refusal

end Sys2Proof.Machine
end

