-- ==== Sys2Proof/Machine/Operands.lean ====
section
/-! DEFINITION. The operand forms of the spec: the fields of written values (30_encoding.md R60, R61), the codes of the mode
and error values (10_state.md R9, R22; 60_exceptions.md R108, R109), `neg8` and `sat8` (R5), the operation length table
(R38), record slots and the record's bit fields (R93, R94). -/

namespace Sys2Proof.Machine

/-! ### Codes -/

/-- The two bits of a sync mode (R22). -/
def syncCode : SyncMode → BitVec 2
  | .none => 0b00
  | .strict => 0b01
  | .hunt => 0b10

/-- The sync mode two bits stand for; 0b11 is reserved (R22). -/
def syncOfCode (m : BitVec 2) : Option SyncMode :=
  match m.toNat with
  | 0 => some .none
  | 1 => some .strict
  | 2 => some .hunt
  | _ => none

/-- The three bits of a receiver state (R9). -/
def rxStateCode : RxState → BitVec 3
  | .idle => 0
  | .hunt => 1
  | .accum => 2
  | .done => 3
  | .error => 4

/-- The three bits of a receive error (R108). -/
def rxErrCode : RxErr → BitVec 3
  | .none => 0
  | .checksum => 1
  | .incomplete => 2
  | .sync => 3

/-- The four bits of a command result (R109). -/
def cmdErrCode : CmdErr → Nibble
  | .ok => 0
  | .badCmd => 1
  | .badArg => 2
  | .lenRange => 3
  | .txSeq => 4
  | .txOverrun => 5
  | .unverified => 6
  | .recRange => 7

/-! ### Fields of a written value -/

/-- `v[7:0]`: the byte of a TX_DATA or CK_DATA write (R60) and the length of an RX_LEN write (R61). -/
def lowByte (v : Word) : Byte := v.extractLsb' 0 8

/-- `v[3:0]`: the bits an INT_EN or INT_PEND write uses (R61). -/
def lowNibble (v : Word) : Nibble := v.extractLsb' 0 4

/-- `v[1:0]`: the bits a CTRL write uses (R61). -/
def lowPair (v : Word) : BitVec 2 := v.extractLsb' 0 2

/-! ### Arithmetic -/

/-- `neg8(s) = (256 - s) mod 256` (R5). -/
def neg8 (s : Byte) : Byte := BitVec.ofNat 8 (256 - s.toNat)

/-- `sat8(n) = min(n, 255)` (R5). -/
def sat8 (n : Nat) : Byte := BitVec.ofNat 8 (min n Config.cntMax)

/-! ### The operation length table -/

/-- `LEN_ROM[op]` (R38); an index 9..15 has no entry. -/
def lenRom (op : Nibble) : Option Byte :=
  match op.toNat with
  | 0 => some 11
  | 1 => some 15
  | 2 => some 7
  | 3 => some 7
  | 4 => some 7
  | 5 => some 10
  | 6 => some 7
  | 7 => some 11
  | 8 => some 147
  | _ => none

/-! ### Record slots -/

/-- The FB index of the first byte of slot `k`: `6 + 10*k` (R94). -/
def slotBase (k : Nibble) : Nat := Config.recBase + Config.recSize * k.toNat

/-- Slot `k` lies wholly before the checksum byte of a frame of length `len`: `10*k + 17 <= L` (R94). -/
def slotInRange (k : Nibble) (len : Byte) : Bool := decide (10 * k.toNat + 17 ≤ len.toNat)

/-- The number of in-range slots, `NSLOT(L) = floor((L - 7) / 10)` (R94). -/
def nslot (len : Byte) : Nat := (len.toNat - 7) / 10

/-! ### The record's bit fields -/

/-- `second = r[0]` (R93). -/
def recSecond (r0 : Byte) : BitVec 8 := r0

/-- `hour = r[1] >> 3` (R93). -/
def recHourOf (r1 : Byte) : BitVec 5 := (r1 >>> 3).setWidth 5

/-- `minute = ((r[1] & 0x07) << 3) | (r[2] >> 5)` (R93). -/
def recMinuteOf (r1 r2 : Byte) : BitVec 6 := (((r1 &&& 0x07) <<< 3) ||| (r2 >>> 5)).setWidth 6

/-- `day = r[2] & 0x1F` (R93). -/
def recDayOf (r2 : Byte) : BitVec 5 := (r2 &&& 0x1F).setWidth 5

/-- `month = r[3] >> 3` (R93). -/
def recMonthOf (r3 : Byte) : BitVec 5 := (r3 >>> 3).setWidth 5

/-- `day_of_week = r[3] & 0x07` (R93). -/
def recDowOf (r3 : Byte) : BitVec 3 := (r3 &&& 0x07).setWidth 3

/-- `year = {r[4], r[5]}`, big-endian (R93, R46). -/
def recYearOf (r4 r5 : Byte) : BitVec 16 := r4 ++ r5

/-- `value = {r[9], r[8], r[7], r[6]}`, little-endian (R93, R46). -/
def recValueOf (r6 r7 r8 r9 : Byte) : BitVec 32 := r9 ++ r8 ++ r7 ++ r6

end Sys2Proof.Machine
end

