-- ==== Sys2Proof/Machine/Flags.lean ====
section
/-! DEFINITION. The flags of the MFC: the interrupt pending bits and who sets them (60_exceptions.md R113), and the outputs,
which are functions of the state alone (10_state.md R39, 44_control.md R106). -/

namespace Sys2Proof.Machine

/-- Pending bit 0, RX_DONE (R19, R113). -/
def pendRxDone : Nibble := 0b0001

/-- Pending bit 1, RX_ERR (R19, R113). -/
def pendRxErr : Nibble := 0b0010

/-- Pending bit 2, TX_READY (R19, R113). -/
def pendTxReady : Nibble := 0b0100

/-- Pending bit 3, CMD_ERR (R19, R113). -/
def pendCmdErr : Nibble := 0b1000

/-- Sets the pending bits of `bits`; a source that fires again while its bit is 1 leaves it 1 (R114). -/
def setPend (bits : Nibble) (s : State) : State := { s with intPend := s.intPend ||| bits }

/-- `int_pend & ~c` (R103). -/
def clearPend (c : Nibble) (s : State) : State := { s with intPend := s.intPend &&& ~~~c }

/-- The output `irq = OR over i of (int_pend[i] AND int_en[i])` (R39, R106). -/
def irq (s : State) : Bool := (s.intPend &&& s.intEn) != 0

/-- The output `tx_valid = tx_busy` (R39). -/
def txValid (s : State) : Bool := s.txBusy

/-- The output `tx_data = tx_hold` (R39). -/
def txData (s : State) : Byte := s.txHold

end Sys2Proof.Machine
end

