-- ==== Sys2Proof/Machine/Ops.lean ====
section
/-! DEFINITION. The named operations over the state: the frame buffer, the two ways an error is raised (60_exceptions.md
R111, R112) and left (R119), arming, the transmit hold register (41_tx_framer.md R71), the record registers, the result of
a host read, and reset. -/

namespace Sys2Proof.Machine

/-! ### The frame buffer (R16) -/

/-- The byte listed at an index. -/
def fbLookup : Memory → Nat → Option Byte
  | [], _ => none
  | (a, b) :: m, i => if a = i then some b else fbLookup m i

/-- Lists a byte at an index, keeping the indices rising. -/
def fbInsert (i : Nat) (b : Byte) : Memory → Memory
  | [] => [(i, b)]
  | (a, c) :: m => if i < a then (i, b) :: (a, c) :: m else if i = a then (i, b) :: m else (a, c) :: fbInsert i b m

/-- `FB[i]`. A byte that nothing has written since the last reset is a free value (R126; log entry 1). -/
def fbByte (s : State) (i : Nat) : Byte := (fbLookup s.fb i).getD (Config.fbUnspecified s.fbEpoch i)

/-- `FB[i] <- b`. -/
def fbStore (i : Nat) (b : Byte) (s : State) : State := { s with fb := fbInsert i b s.fb }

/-- The index the receiver stores its next byte at, `rx_count` (R16, R88). -/
def fbNext (s : State) : Nat := s.rxCount.toNat

/-- `mask(i) = (i < rx_count) ? FB[i] : 0x00` (R43). -/
def fbMasked (s : State) (i : Nat) : Byte := if i < s.rxCount.toNat then fbByte s i else 0x00

/-- The FB window word `j`, packed little-endian (R43, R45). -/
def fbWord (s : State) (j : BitVec 6) : Word :=
  fbMasked s (4 * j.toNat + 3) ++ fbMasked s (4 * j.toNat + 2) ++ fbMasked s (4 * j.toNat + 1) ++ fbMasked s (4 * j.toNat)

/-! ### Errors: entry (R111, R112, R118) -/

/-- `raise CmdError(code)`: `cmd_err <- code ; int_pend[3] <- 1`, and nothing else (R111). -/
def raiseCmdError (c : CmdErr) (s : State) : State := setPend pendCmdErr { s with cmdErr := c }

/-- `raise RxError(code)`: `rx_state <- ERROR ; rx_err <- code ; int_pend[1] <- 1` (R112). The other writes of the raising
rule stand beside it. -/
def raiseRxError (e : RxErr) (s : State) : State := setPend pendRxErr { s with rxState := .error, rxErr := e }

/-- The command succeeded: `cmd_err <- 0`, and `int_pend[3]` is not touched (R59). -/
def commandOk (s : State) : State := { s with cmdErr := .ok }

/-! ### Errors: return (R119), arming and clearing the receiver -/

/-- `rec_valid`, `rec_idx` and every `rec_*` field go to 0 (R21). -/
def clearRecord (s : State) : State :=
  { s with recValid := false, recIdx := 0, recSec := 0, recMin := 0, recHour := 0, recDay := 0, recMon := 0, recDow := 0,
           recYear := 0, recVal := 0 }

/-- The receiver's counters, flags and error go to 0 and its state to `st`: what arming and RX_CLEAR share (R80, R82). -/
def restartReceiver (st : RxState) (s : State) : State :=
  clearRecord { s with rxState := st, rxErr := .none, rxCount := 0, rxSum := 0, rxSkip := 0, rxDrop := false }

/-- `arm_common(L)` (42_rx_framer.md, before section 1): it latches the length and the sync mode (R11). -/
def armCommon (len : Byte) (s : State) : State :=
  commandOk (restartReceiver .hunt { s with actLen := len, actMode := s.syncMode })

/-- A timeout, by command (R83) or by input (R89): it ends HUNT and ACCUM only. -/
def expire (s : State) : State :=
  match s.rxState with
  | .hunt => raiseRxError .incomplete s
  | .accum => raiseRxError .incomplete s
  | .idle => s
  | .done => s
  | .error => s

/-- The first byte of a frame (R85 to R87): `FB[0] <- b ; rx_count <- 1 ; rx_sum <- b ; rx_state <- ACCUM`. -/
def startFrame (b : Byte) (s : State) : State :=
  fbStore 0 b { s with rxCount := 1, rxSum := b, rxState := .accum }

/-- A byte in ACCUM (R88): stored and counted, and at the expected length the frame is validated. R88 has `rx_count` at most
254; a count of 255, which no run reaches, matches no length and wraps to 0 (DESIGN CHOICE, safe: log entry 12). -/
def accumulate (b : Byte) (s : State) : State :=
  let n := s.rxCount.toNat + 1
  let sum := s.rxSum + b
  let t := fbStore (fbNext s) b { s with rxCount := BitVec.ofNat 8 n, rxSum := sum }
  if n = s.actLen.toNat then
    (if sum = 0 then setPend pendRxDone { t with rxState := .done } else raiseRxError .checksum t)
  else t

/-! ### The transmit hold register (R71) -/

/-- `emit(b)`: the byte goes into the hold register, and `tx_sum` and `tx_cnt` count it (R71). -/
def emit (b : Byte) (s : State) : State :=
  { s with txHold := b, txBusy := true, txSum := s.txSum + b, txCnt := sat8 (s.txCnt.toNat + 1) }

/-- The hold register becomes empty (R17: `tx_hold` is 0 when `tx_busy = 0`). -/
def emptyHold (s : State) : State := { s with txBusy := false, txHold := 0 }

/-! ### The record registers (R95) -/

/-- The record of slot `k` of FB in the REC registers (R93, R95). -/
def loadRecord (k : Nibble) (s : State) : State :=
  let r := fun i => fbByte s (slotBase k + i)
  { s with recSec := recSecond (r 0), recHour := recHourOf (r 1), recMin := recMinuteOf (r 1) (r 2), recDay := recDayOf (r 2),
           recMon := recMonthOf (r 3), recDow := recDowOf (r 3), recYear := recYearOf (r 4) (r 5),
           recVal := recValueOf (r 6) (r 7) (r 8) (r 9), recValid := true, recIdx := k }

/-! ### Host reads, and reset -/

/-- A read returns a word on `prdata` and changes no state of R8 (R104); the model notes the word. -/
def returnWord (v : Word) (s : State) : State := { s with rdOut := s.rdOut ++ [v] }

/-- Every element of R8 takes its reset value (R99, R125). FB's is unspecified, so it takes a fresh free content (R126); the
inputs still to come and the record of what was handed out are not MFC state and stay. -/
def resetAll (s : State) : State :=
  { State.reset with fbEpoch := s.fbEpoch + 1, inputs := s.inputs, txOut := s.txOut, rdOut := s.rdOut }

end Sys2Proof.Machine
end

