-- ==== Sys2Proof/Machine/Registers.lean ====
section
/-! DEFINITION. The registers a host read composes from the state (10_state.md R22 to R37, 44_control.md R104). -/

namespace Sys2Proof.Machine

/-- CTRL (R22). -/
def regCtrl (s : State) : Word := (0 : BitVec 30) ++ syncCode s.syncMode

/-- STATUS (R24). -/
def regStatus (s : State) : Word :=
  (0 : BitVec 4) ++ s.recIdx ++ (0 : BitVec 4) ++ cmdErrCode s.cmdErr ++ (0 : BitVec 2) ++ syncCode s.actMode
    ++ BitVec.ofBool s.rxDrop ++ BitVec.ofBool s.recValid ++ BitVec.ofBool s.txBusy ++ BitVec.ofBool s.txOpen
    ++ (0 : BitVec 1) ++ rxErrCode s.rxErr ++ (0 : BitVec 1) ++ rxStateCode s.rxState

/-- RX_LEN (R25). -/
def regRxLen (s : State) : Word := (0 : BitVec 24) ++ s.rxLen

/-- RX_INFO (R26). -/
def regRxInfo (s : State) : Word := s.rxSkip ++ s.rxSum ++ s.actLen ++ s.rxCount

/-- TX_INFO (R28). -/
def regTxInfo (s : State) : Word := (0 : BitVec 8) ++ s.txHold ++ s.txCnt ++ s.txSum

/-- CK_INFO (R30, R69): the generator output `neg8(ck_sum)` and the validator output `ck_sum = 0`. -/
def regCkInfo (s : State) : Word :=
  s.ckCnt ++ (0 : BitVec 7) ++ BitVec.ofBool (s.ckSum == 0) ++ neg8 s.ckSum ++ s.ckSum

/-- INT_PEND (R31). -/
def regIntPend (s : State) : Word := (0 : BitVec 28) ++ s.intPend

/-- INT_EN (R32). -/
def regIntEn (s : State) : Word := (0 : BitVec 28) ++ s.intEn

/-- REC_A (R33). -/
def regRecA (s : State) : Word :=
  (0 : BitVec 3) ++ s.recDay ++ (0 : BitVec 3) ++ s.recHour ++ (0 : BitVec 2) ++ s.recMin ++ s.recSec

/-- REC_B (R34). -/
def regRecB (s : State) : Word := s.recYear ++ (0 : BitVec 5) ++ s.recDow ++ (0 : BitVec 3) ++ s.recMon

/-- REC_VALUE (R35). -/
def regRecValue (s : State) : Word := s.recVal

/-- ID (R36). -/
def regId : Word := 0x4D464301

/-- The register at a word address below the FB window (20_memory.md R42). The write-only registers CMD, TX_DATA and CK_DATA
read 0 (R23, R27; CK_DATA's address 0x07, R29), and so do the reserved offsets (R37). -/
def readReg (addr : WordAddr) (s : State) : Word :=
  match addr.toNat with
  | 0x00 => regCtrl s
  | 0x02 => regStatus s
  | 0x03 => regRxLen s
  | 0x04 => regRxInfo s
  | 0x06 => regTxInfo s
  | 0x08 => regCkInfo s
  | 0x09 => regIntPend s
  | 0x0A => regIntEn s
  | 0x0B => regRecA s
  | 0x0C => regRecB s
  | 0x0D => regRecValue s
  | 0x0E => regId
  | _ => 0

/-- `BusRead(4 * addr)` (R104): a register, or a word of the FB window (R43). -/
def busRead (addr : WordAddr) (s : State) : Word :=
  if addr.toNat < 0x40 then readReg addr s else fbWord s (addr.extractLsb' 0 6)

end Sys2Proof.Machine
end

