-- ==== Sys2Proof/Machine/Checksum.lean ====
section
/-! DEFINITION. The checksum-8 family (40_checksum.md): the function R65, frame validity R66, and the standalone unit
CK_DATA, CK_CLEAR and CK_INFO (R67 to R69). -/

namespace Sys2Proof.Machine

/-- `sum8(bs)`, the byte sum mod 256 (R65). -/
def sum8 : List Byte → Byte
  | [] => 0
  | b :: bs => b + sum8 bs

/-- `checksum(bs) = neg8(sum8(bs))` (R65). -/
def checksum (bs : List Byte) : Byte := neg8 (sum8 bs)

/-- The source's `verify_frame` of the frame `body ++ [last]` (R66). It takes the last byte apart from the rest, so it is not
defined on the empty sequence (93_implementation_defined.md U1; log entry 6). -/
def verifyFrame (body : List Byte) (last : Byte) : Bool := checksum body == last

/-- WR_CK_DATA (R67). -/
def execWrCkData (v : Word) (s : State) : Result :=
  .next (commandOk { s with ckSum := s.ckSum + lowByte v, ckCnt := sat8 (s.ckCnt.toNat + 1) })

/-- CK_CLEAR (R68). -/
def execCkClear (s : State) : Result :=
  .next (commandOk { s with ckSum := 0, ckCnt := 0 })

/-- RD_CK_INFO (R69). -/
def execRdCkInfo (s : State) : Result :=
  .next (returnWord (regCkInfo s) s)

end Sys2Proof.Machine
end

