-- ==== Sys2Proof/Machine/Control.lean ====
section
/-! DEFINITION. The control family (44_control.md R98 to R105): NOP, SOFT_RESET, the control-register writes, the ignored
writes and the register reads; and the RESET event (70_reset_and_hazards.md R125). -/

namespace Sys2Proof.Machine

/-- NOP (R98): it reports success. -/
def execNop (s : State) : Result := .next (commandOk s)

/-- SOFT_RESET (R99). -/
def execSoftReset (s : State) : Result := .next (resetAll s)

/-- WR_CTRL (R100): a write of 0b11 leaves `sync_mode` unchanged. -/
def execWrCtrl (v : Word) (s : State) : Result :=
  match syncOfCode (lowPair v) with
  | some m => .next { s with syncMode := m }
  | none => .next s

/-- WR_RX_LEN (R101). -/
def execWrRxLen (v : Word) (s : State) : Result := .next { s with rxLen := lowByte v }

/-- WR_INT_PEND (R103): write 1 to clear. -/
def execWrIntPend (v : Word) (s : State) : Result := .next (clearPend (lowNibble v) s)

/-- WR_INT_EN (R102). -/
def execWrIntEn (v : Word) (s : State) : Result := .next { s with intEn := lowNibble v }

/-- WR_IGNORED (R105): a write to a read-only register, a reserved offset or the FB window changes no state. -/
def execWrIgnored (_addr : WordAddr) (_v : Word) (s : State) : Result := .next s

/-- RD_REG (R104). -/
def execRdReg (addr : WordAddr) (s : State) : Result := .next (returnWord (readReg addr s) s)

/-- RD_FB (R43). -/
def execRdFb (j : BitVec 6) (s : State) : Result := .next (returnWord (fbWord s j) s)

/-- RESET (R125). What else its cycle carries is lost: `nextEvent` sees to that (R117). -/
def execReset (s : State) : Result := .next (resetAll s)

end Sys2Proof.Machine
end

