-- ==== Sys2Proof/Machine/Illegal.lean ====
section
/-! DEFINITION. The reserved and malformed CMD words (30_encoding.md R58, R59). Each is reported, and none is a silent
no-op (R64). -/

namespace Sys2Proof.Machine

/-- RESERVED_A: BAD_CMD (R58). -/
def execReservedA (_z : BitVec 24) (_a : Nibble) (s : State) : Result := .next (raiseCmdError .badCmd s)

/-- RESERVED_B: BAD_CMD (R58). -/
def execReservedB (_z : BitVec 24) (_a : Nibble) (s : State) : Result := .next (raiseCmdError .badCmd s)

/-- RESERVED_C: BAD_CMD (R58). -/
def execReservedC (_z : BitVec 24) (_a : Nibble) (s : State) : Result := .next (raiseCmdError .badCmd s)

/-- RESERVED_D: BAD_CMD (R58). -/
def execReservedD (_z : BitVec 24) (_a : Nibble) (s : State) : Result := .next (raiseCmdError .badCmd s)

/-- RESERVED_E: BAD_CMD (R58). -/
def execReservedE (_z : BitVec 24) (_a : Nibble) (s : State) : Result := .next (raiseCmdError .badCmd s)

/-- CMD_NONZERO_Z: BAD_CMD. The one malformed word with another code, RX_ARM_OP with `A` in 9..15 and `Z = 0`, is a word of
RX_ARM_OP's own row and raises BAD_ARG there (R58, R59, R81). -/
def execCmdNonzeroZ (_z : BitVec 24) (_a : Nibble) (_op : Nibble) (s : State) : Result :=
  .next (raiseCmdError .badCmd s)

end Sys2Proof.Machine
end

