-- ==== Sys2Proof/Machine/RecordDecoder.lean ====
section
/-! DEFINITION. The record bit-field decoder (43_record_decoder.md R93 to R95). -/

namespace Sys2Proof.Machine

/-- DECODE (R95): UNVERIFIED unless the receiver is DONE, REC_RANGE unless the slot lies inside the payload. -/
def execDecode (k : Nibble) (s : State) : Result :=
  if s.rxState ≠ .done then .next (raiseCmdError .unverified s)
  else if !slotInRange k s.actLen then .next (raiseCmdError .recRange s)
  else .next (commandOk (loadRecord k s))

end Sys2Proof.Machine
end

