-- ==== Sys2Proof/WellFormed.lean ====
section
/-! DEFINITION. Which terms of `Instr` stand for words the decoder gives: the operands of four rows overlap other rows of
spec/opcode_table.json, and a term is well-formed when no other row claims its word (30_encoding.md R56 to R58). -/

namespace Sys2Proof

/-- The reserved opcodes 0xA..0xE (R56). -/
def opReserved (op : Nibble) : Bool :=
  decide (0xA ≤ op.toNat) && decide (op.toNat ≤ 0xE)

/-- `A` is allowed for a defined opcode (R57). For RX_ARM_OP every `A` is a word of that row: 9..15 is its own error
BAD_ARG (R81). -/
def argAllowed (op a : Nibble) : Bool :=
  if op = 0x2 then true
  else if op = 0x9 then true
  else if op = 0xF then decide (a = 0xF)
  else decide (a = 0x0)

/-- A malformed CMD word that no RESERVED row claims (R58): `Z` is not zero, or `A` is not allowed for `OP`. -/
def malformedCmd (z : BitVec 24) (a op : Nibble) : Bool :=
  !opReserved op && (decide (z ≠ 0) || !argAllowed op a)

/-- The word addresses whose write has a row of its own (20_memory.md R42): CTRL, CMD, RX_LEN, TX_DATA, CK_DATA, INT_PEND
and INT_EN. -/
def writeHasRow (addr : WordAddr) : Bool :=
  [0x00, 0x01, 0x03, 0x05, 0x07, 0x09, 0x0A].contains addr.toNat

/-- The word addresses RD_REG reads: below the FB window, and not CK_INFO, which has a row of its own (R69, R104). -/
def readIsReg (addr : WordAddr) : Bool :=
  decide (addr.toNat < 0x40) && decide (addr.toNat ≠ 0x08)

/-- Well-formed operations: the ones the decoder gives. -/
def Instr.wellFormed : Instr → Bool
  | .nop => true
  | .rxArm => true
  | .rxArmOp _ => true
  | .rxClear => true
  | .rxTimeoutCmd => true
  | .txStart => true
  | .txEnd => true
  | .txAbort => true
  | .ckClear => true
  | .decode _ => true
  | .softReset => true
  | .reservedA _ _ => true
  | .reservedB _ _ => true
  | .reservedC _ _ => true
  | .reservedD _ _ => true
  | .reservedE _ _ => true
  | .cmdNonzeroZ z a op => malformedCmd z a op
  | .wrCtrl _ => true
  | .wrRxLen _ => true
  | .wrTxData _ => true
  | .wrCkData _ => true
  | .wrIntPend _ => true
  | .wrIntEn _ => true
  | .wrIgnored addr _ => !writeHasRow addr
  | .rdReg addr => readIsReg addr
  | .rdCkInfo => true
  | .rdFb _ => true
  | .rxbyteDrop _ => true
  | .rxbyteHuntNone _ => true
  | .rxbyteHuntStrict _ => true
  | .rxbyteHuntHunt _ => true
  | .rxbyteAccum _ => true
  | .txTake => true
  | .rxTimeoutEvt => true
  | .reset => true

/-- The condition on `rx_state` and `act_mode` that stands in the "encoding" of the RXBYTE rows of the table (R84 to R88).
Every other row is selected by its port alone. -/
def Instr.selectedBy (i : Instr) (st : RxState) (m : SyncMode) : Bool :=
  match i with
  | .rxbyteDrop _ => decide (st = .idle) || decide (st = .done) || decide (st = .error)
  | .rxbyteHuntNone _ => decide (st = .hunt) && decide (m = .none)
  | .rxbyteHuntStrict _ => decide (st = .hunt) && decide (m = .strict)
  | .rxbyteHuntHunt _ => decide (st = .hunt) && decide (m = .hunt)
  | .rxbyteAccum _ => decide (st = .accum)
  | .nop | .rxArm | .rxArmOp _ | .rxClear | .rxTimeoutCmd | .txStart | .txEnd | .txAbort | .ckClear | .decode _
  | .softReset | .reservedA _ _ | .reservedB _ _ | .reservedC _ _ | .reservedD _ _ | .reservedE _ _ | .cmdNonzeroZ _ _ _
  | .wrCtrl _ | .wrRxLen _ | .wrTxData _ | .wrCkData _ | .wrIntPend _ | .wrIntEn _ | .wrIgnored _ _ | .rdReg _
  | .rdCkInfo | .rdFb _ | .txTake | .rxTimeoutEvt | .reset => true

end Sys2Proof
end

