-- ==== Sys2Proof/Machine/RxFramer.lean ====
section
/-! DEFINITION. The receive framer (42_rx_framer.md R80 to R89): the arm, clear and timeout commands and the line events. The
five RXBYTE rows are one port event, told apart by the receiver's state (`Instr.selectedBy`). -/

namespace Sys2Proof.Machine

/-- The row's condition on `rx_state` and `act_mode` holds in this state (the table's "encoding" of the RXBYTE rows). -/
def rowSelected (i : Instr) (s : State) : Bool := i.selectedBy s.rxState s.actMode

/-- RX_ARM (R80). -/
def execRxArm (s : State) : Result :=
  if s.rxLen.toNat < Config.minLen then .next (raiseCmdError .lenRange s)
  else .next (armCommon s.rxLen s)

/-- RX_ARM_OP (R81): an index with no entry in LEN_ROM is BAD_ARG. -/
def execRxArmOp (a : Nibble) (s : State) : Result :=
  match lenRom a with
  | some len => .next (armCommon len s)
  | none => .next (raiseCmdError .badArg s)

/-- RX_CLEAR (R82): `act_len` and `act_mode` keep their values. -/
def execRxClear (s : State) : Result :=
  .next (commandOk (restartReceiver .idle s))

/-- RX_TIMEOUT, the command (R83): it succeeds also where it raises INCOMPLETE. -/
def execRxTimeoutCmd (s : State) : Result :=
  .next (expire (commandOk s))

/-- RXBYTE_DROP (R84). -/
def execRxbyteDrop (b : Byte) (s : State) : Result :=
  if rowSelected (.rxbyteDrop b) s then .next { s with rxDrop := true } else .refused .rowNotSelected

/-- RXBYTE_HUNT_NONE (R85). -/
def execRxbyteHuntNone (b : Byte) (s : State) : Result :=
  if rowSelected (.rxbyteHuntNone b) s then .next (startFrame b s) else .refused .rowNotSelected

/-- RXBYTE_HUNT_STRICT (R86). -/
def execRxbyteHuntStrict (b : Byte) (s : State) : Result :=
  if rowSelected (.rxbyteHuntStrict b) s then
    (if b = Config.sync then .next (startFrame b s) else .next (raiseRxError .sync s))
  else .refused .rowNotSelected

/-- RXBYTE_HUNT_HUNT (R87). -/
def execRxbyteHuntHunt (b : Byte) (s : State) : Result :=
  if rowSelected (.rxbyteHuntHunt b) s then
    (if b = Config.sync then .next (startFrame b s) else .next { s with rxSkip := sat8 (s.rxSkip.toNat + 1) })
  else .refused .rowNotSelected

/-- RXBYTE_ACCUM (R88). -/
def execRxbyteAccum (b : Byte) (s : State) : Result :=
  if rowSelected (.rxbyteAccum b) s then .next (accumulate b s) else .refused .rowNotSelected

/-- RXTIMEOUT, the port event (R89): `cmd_err` is not written. -/
def execRxTimeoutEvt (s : State) : Result :=
  .next (expire s)

end Sys2Proof.Machine
end

