-- ==== Sys2Proof/Machine/TxFramer.lean ====
section
/-! DEFINITION. The transmit framer (41_tx_framer.md R71 to R77). The checks of each rule stand in the rule's order: TX_SEQ,
then TX_OVERRUN (R116). -/

namespace Sys2Proof.Machine

/-- TX_START (R73). -/
def execTxStart (s : State) : Result :=
  if s.txOpen then .next (raiseCmdError .txSeq s)
  else if s.txBusy then .next (raiseCmdError .txOverrun s)
  else .next (commandOk (emit Config.sync { s with txOpen := true, txSum := 0, txCnt := 0 }))

/-- WR_TX_DATA (R74). -/
def execWrTxData (v : Word) (s : State) : Result :=
  if !s.txOpen then .next (raiseCmdError .txSeq s)
  else if s.txBusy then .next (raiseCmdError .txOverrun s)
  else .next (commandOk (emit (lowByte v) s))

/-- TX_END (R75): the checksum of every byte of the frame so far is `neg8(tx_sum)`. -/
def execTxEnd (s : State) : Result :=
  if !s.txOpen then .next (raiseCmdError .txSeq s)
  else if s.txBusy then .next (raiseCmdError .txOverrun s)
  else .next (commandOk (emit (neg8 s.txSum) { s with txOpen := false }))

/-- TX_ABORT (R76): `tx_sum`, `tx_cnt` and TX_READY are left alone. -/
def execTxAbort (s : State) : Result :=
  .next (commandOk (emptyHold { s with txOpen := false }))

/-- TXTAKE (R77): the event exists only while `tx_busy = 1` (R6, R62). -/
def execTxTake (s : State) : Result :=
  if s.txBusy then .next (setPend pendTxReady (emptyHold { s with txOut := s.txOut ++ [s.txHold] }))
  else .refused .takeNotEnabled

end Sys2Proof.Machine
end

