-- ==== Sys2Proof/Machine/Dispatch.lean ====
section
/-! DEFINITION. One arm per operation: the meaning each row of spec/opcode_table.json has. -/

namespace Sys2Proof.Machine

def exec (i : Instr) (s : State) : Host.Outcome State Fault Refusal :=
  match i with
  | .nop => Sys2Proof.Machine.execNop s
  | .rxArm => Sys2Proof.Machine.execRxArm s
  | .rxArmOp a => Sys2Proof.Machine.execRxArmOp a s
  | .rxClear => Sys2Proof.Machine.execRxClear s
  | .rxTimeoutCmd => Sys2Proof.Machine.execRxTimeoutCmd s
  | .txStart => Sys2Proof.Machine.execTxStart s
  | .txEnd => Sys2Proof.Machine.execTxEnd s
  | .txAbort => Sys2Proof.Machine.execTxAbort s
  | .ckClear => Sys2Proof.Machine.execCkClear s
  | .decode k => Sys2Proof.Machine.execDecode k s
  | .softReset => Sys2Proof.Machine.execSoftReset s
  | .reservedA z a => Sys2Proof.Machine.execReservedA z a s
  | .reservedB z a => Sys2Proof.Machine.execReservedB z a s
  | .reservedC z a => Sys2Proof.Machine.execReservedC z a s
  | .reservedD z a => Sys2Proof.Machine.execReservedD z a s
  | .reservedE z a => Sys2Proof.Machine.execReservedE z a s
  | .cmdNonzeroZ z a op => Sys2Proof.Machine.execCmdNonzeroZ z a op s
  | .wrCtrl v => Sys2Proof.Machine.execWrCtrl v s
  | .wrRxLen v => Sys2Proof.Machine.execWrRxLen v s
  | .wrTxData v => Sys2Proof.Machine.execWrTxData v s
  | .wrCkData v => Sys2Proof.Machine.execWrCkData v s
  | .wrIntPend v => Sys2Proof.Machine.execWrIntPend v s
  | .wrIntEn v => Sys2Proof.Machine.execWrIntEn v s
  | .wrIgnored addr v => Sys2Proof.Machine.execWrIgnored addr v s
  | .rdReg addr => Sys2Proof.Machine.execRdReg addr s
  | .rdCkInfo => Sys2Proof.Machine.execRdCkInfo s
  | .rdFb j => Sys2Proof.Machine.execRdFb j s
  | .rxbyteDrop b => Sys2Proof.Machine.execRxbyteDrop b s
  | .rxbyteHuntNone b => Sys2Proof.Machine.execRxbyteHuntNone b s
  | .rxbyteHuntStrict b => Sys2Proof.Machine.execRxbyteHuntStrict b s
  | .rxbyteHuntHunt b => Sys2Proof.Machine.execRxbyteHuntHunt b s
  | .rxbyteAccum b => Sys2Proof.Machine.execRxbyteAccum b s
  | .txTake => Sys2Proof.Machine.execTxTake s
  | .rxTimeoutEvt => Sys2Proof.Machine.execRxTimeoutEvt s
  | .reset => Sys2Proof.Machine.execReset s

end Sys2Proof.Machine
end

