-- ==== Sys2Proof/Decode.lean ====
section
/-! DEFINITION. The decoder and the encoder (30_encoding.md R55 to R62, 20_memory.md R42). The MFC fetches nothing (R53): an
operation arrives as one event of one port, so the decoder reads a port event. It is total, and no word is rejected
silently: a reserved or malformed CMD word decodes to the row that reports it (R58, R64). -/

namespace Sys2Proof

/-- `Z = v[31:8]` (R55). -/
def cmdZ (v : Word) : BitVec 24 := v.extractLsb' 8 24

/-- `A = v[7:4]` (R55). -/
def cmdA (v : Word) : Nibble := v.extractLsb' 4 4

/-- `OP = v[3:0]` (R55). -/
def cmdOp (v : Word) : Nibble := v.extractLsb' 0 4

/-- The CMD word `{Z, A, OP}` (R55). -/
def cmdWord (z : BitVec 24) (a op : Nibble) : Word := z ++ a ++ op

/-- The opcode map of R56 for a word that has passed the checks of R59. -/
def decodeLegalCmd (a op : Nibble) : Instr :=
  match op.toNat with
  | 0x0 => .nop
  | 0x1 => .rxArm
  | 0x2 => .rxArmOp a
  | 0x3 => .rxClear
  | 0x4 => .rxTimeoutCmd
  | 0x5 => .txStart
  | 0x6 => .txEnd
  | 0x7 => .txAbort
  | 0x8 => .ckClear
  | 0x9 => .decode a
  | _ => .softReset

/-- The five RESERVED rows (R56, R58); their mask leaves `Z` and `A` free. -/
def decodeReservedCmd (z : BitVec 24) (a op : Nibble) : Instr :=
  match op.toNat with
  | 0xA => .reservedA z a
  | 0xB => .reservedB z a
  | 0xC => .reservedC z a
  | 0xD => .reservedD z a
  | _ => .reservedE z a

/-- A write to CMD (R55 to R59). -/
def decodeCmd (v : Word) : Instr :=
  if opReserved (cmdOp v) then decodeReservedCmd (cmdZ v) (cmdA v) (cmdOp v)
  else if malformedCmd (cmdZ v) (cmdA v) (cmdOp v) then .cmdNonzeroZ (cmdZ v) (cmdA v) (cmdOp v)
  else decodeLegalCmd (cmdA v) (cmdOp v)

/-- A write at a word address (20_memory.md R42, R60, R61, R105). -/
def decodeWrite (addr : WordAddr) (v : Word) : Instr :=
  match addr.toNat with
  | 0x00 => .wrCtrl v
  | 0x01 => decodeCmd v
  | 0x03 => .wrRxLen v
  | 0x05 => .wrTxData v
  | 0x07 => .wrCkData v
  | 0x09 => .wrIntPend v
  | 0x0A => .wrIntEn v
  | _ => .wrIgnored addr v

/-- A read at a word address (R43, R69, R104). -/
def decodeRead (addr : WordAddr) : Instr :=
  if addr.toNat < 0x40 then (if addr.toNat = 0x08 then .rdCkInfo else .rdReg addr)
  else .rdFb (addr.extractLsb' 0 6)

/-- A host access. -/
def decodeAccess : Access → Instr
  | .read addr => decodeRead addr
  | .write addr v => decodeWrite addr v

/-- A received byte: `rx_state` and `act_mode` select the row (R84 to R88). -/
def decodeRxByte (st : RxState) (m : SyncMode) (b : Byte) : Instr :=
  match st with
  | .idle => .rxbyteDrop b
  | .done => .rxbyteDrop b
  | .error => .rxbyteDrop b
  | .accum => .rxbyteAccum b
  | .hunt =>
    match m with
    | .none => .rxbyteHuntNone b
    | .strict => .rxbyteHuntStrict b
    | .hunt => .rxbyteHuntHunt b

/-- The operation a port event is, for a receiver in state `st` with latched sync mode `m`. -/
def decodeEvent (st : RxState) (m : SyncMode) : PortEvent → Instr
  | .access a => decodeAccess a
  | .rxByte b => decodeRxByte st m b
  | .txTake => .txTake
  | .rxTimeout => .rxTimeoutEvt
  | .reset => .reset

/-! The encoder: the port event of an operation, from R42 (offsets), R56 (CMD words) and R62 (port events). -/

/-- The word address of CMD, offset 0x004 (R23). -/
def addrCmd : WordAddr := 0x01

/-- A write of the CMD word `{Z, A, OP}`. -/
def encodeCmd (z : BitVec 24) (a op : Nibble) : PortEvent := .access (.write addrCmd (cmdWord z a op))

/-- The port event that is this operation. -/
def encode : Instr → PortEvent
  | .nop => encodeCmd 0 0x0 0x0
  | .rxArm => encodeCmd 0 0x0 0x1
  | .rxArmOp a => encodeCmd 0 a 0x2
  | .rxClear => encodeCmd 0 0x0 0x3
  | .rxTimeoutCmd => encodeCmd 0 0x0 0x4
  | .txStart => encodeCmd 0 0x0 0x5
  | .txEnd => encodeCmd 0 0x0 0x6
  | .txAbort => encodeCmd 0 0x0 0x7
  | .ckClear => encodeCmd 0 0x0 0x8
  | .decode k => encodeCmd 0 k 0x9
  | .softReset => encodeCmd 0 0xF 0xF
  | .reservedA z a => encodeCmd z a 0xA
  | .reservedB z a => encodeCmd z a 0xB
  | .reservedC z a => encodeCmd z a 0xC
  | .reservedD z a => encodeCmd z a 0xD
  | .reservedE z a => encodeCmd z a 0xE
  | .cmdNonzeroZ z a op => encodeCmd z a op
  | .wrCtrl v => .access (.write 0x00 v)
  | .wrRxLen v => .access (.write 0x03 v)
  | .wrTxData v => .access (.write 0x05 v)
  | .wrCkData v => .access (.write 0x07 v)
  | .wrIntPend v => .access (.write 0x09 v)
  | .wrIntEn v => .access (.write 0x0A v)
  | .wrIgnored addr v => .access (.write addr v)
  | .rdReg addr => .access (.read addr)
  | .rdCkInfo => .access (.read 0x08)
  | .rdFb j => .access (.read ((1 : BitVec 1) ++ j))
  | .rxbyteDrop b => .rxByte b
  | .rxbyteHuntNone b => .rxByte b
  | .rxbyteHuntStrict b => .rxByte b
  | .rxbyteHuntHunt b => .rxByte b
  | .rxbyteAccum b => .rxByte b
  | .txTake => .txTake
  | .rxTimeoutEvt => .rxTimeout
  | .reset => .reset

/-- The format a port event has (30_encoding.md section 1): "A decoder learns the operation from the offset, plus the CMD
word when the offset is 0x004". -/
def eventFormat : PortEvent → Format
  | .access (.read _) => .regr
  | .access (.write addr _) => if addr = addrCmd then .cmd else .regw
  | .rxByte _ => .port
  | .txTake => .port
  | .rxTimeout => .port
  | .reset => .port

/-! The words of spec/opcode_table.json as port events (log entry 8). The table numbers a CMD row by the 32 bits of the CMD
word and a register row by the byte offset, `paddr` in bits 8:2; the port rows have no word. -/

/-- The table's register rows give no bit for the direction. An offset is taken as the write its REGW row names, and as a
read where no REGW row names it (log entry 8). -/
def tableAccess (addr : WordAddr) : Access :=
  if [0x00, 0x02, 0x03, 0x05, 0x07, 0x09, 0x0A].contains addr.toNat then .write addr 0 else .read addr

/-- The port event of a table row's word: 9 to 16 bits are a register offset, any other width up to 32 is a CMD word. Bits
of the operation that the table does not number are 0. -/
def tableEvent (nbits w : Nat) : Option PortEvent :=
  if 8 < nbits ∧ nbits ≤ 16 then
    if w < 2 ^ 16 then some (.access (tableAccess ((BitVec.ofNat 16 w).extractLsb' 2 7))) else none
  else if nbits ≤ 32 then
    if w < 2 ^ 32 then some (.access (.write addrCmd (BitVec.ofNat 32 w))) else none
  else none

/-- The operation the decoder reads from a word of the opcode table. No table word is a received byte, so the receiver's
state plays no part. -/
def decodeTableWord (nbits w : Nat) : Option Instr :=
  (tableEvent nbits w).map (decodeEvent .idle .strict)

end Sys2Proof
end

