-- ==== Sys2Proof/Machine/Fetch.lean ====
section
/-! DEFINITION. Which event comes next (00_scope.md R6, 60_exceptions.md R117). The MFC fetches nothing (20_memory.md R53):
its next operation is the first event, in the order of R117, that is left at the oldest clock edge of `inputs`. -/

namespace Sys2Proof.Machine

/-- The first event left at a clock edge, and what is left of the edge after it (R117): the reset alone, all else lost; the
host access; TxTake, if `tx_busy = 1` now; RxByte; RxTimeout. `tx_ready = 1` with `tx_busy = 0` is no event (R62). -/
def nextEvent (c : PortCycle) (s : State) : Option (PortEvent × PortCycle) :=
  if c.rst then some (.reset, PortCycle.idle)
  else
    match c.access with
    | some a => some (.access a, { c with access := none })
    | none =>
      if c.txReady && s.txBusy then some (.txTake, { c with txReady := false })
      else
        match c.rxData with
        | some b => some (.rxByte b, { c with rxData := none })
        | none => if c.rxTimeout then some (.rxTimeout, { c with rxTimeout := false }) else none

/-- What one step does. -/
inductive Fetched where
  /-- No clock edge is given: "If `clk` stops, no event happens and all state is held" (R124). -/
  | noEdge
  /-- The oldest edge has no event left; the state after it, with the later edges to come. -/
  | edgeOver (s : State)
  /-- The operation the next event is, and the state it acts on. -/
  | event (i : Instr) (s : State)

/-- The next thing to happen. -/
def fetch (s : State) : Fetched :=
  match s.inputs with
  | [] => .noEdge
  | c :: rest =>
    match nextEvent c s with
    | none => .edgeOver { s with inputs := rest }
    | some (e, left) => .event (decodeEvent s.rxState s.actMode e) { s with inputs := left :: rest }

/-- One event at a clock edge of its own, before everything else still to come. -/
def queueEvent (e : PortEvent) (s : State) : State := { s with inputs := PortCycle.ofEvent e :: s.inputs }

end Sys2Proof.Machine
end

