-- ==== Sys2Proof/Machine/Step.lean ====
section
/-! DEFINITION. One step of the MFC: one atomic event (00_scope.md R6, R7), or the end of a clock edge. -/

namespace Sys2Proof.Machine

/-- One step: the next event's meaning, or nothing where no event is left. -/
def step (s : State) : Host.Outcome State Fault Refusal :=
  match fetch s with
  | .noEdge => .next s
  | .edgeOver t => .next t
  | .event i t => exec i t

/-- The operation of a table word at a clock edge of its own, before everything else still to come (log entries 2 and 8). -/
def State.withFetchWord (s : State) (nbits w : Nat) : State :=
  match tableEvent nbits w with
  | some e => queueEvent e s
  | none => s

end Sys2Proof.Machine
end

