-- ==== Sys2Proof/Machine/Cycle.lean ====
section
/-! DEFINITION. A whole clock cycle as the composition of its events in the order of 60_exceptions.md R117, stated over
`exec` alone and without the queue of inputs. One step takes one event; that steps compose to this is a statement about
them, not their definition. -/

namespace Sys2Proof.Machine

/-- One stage after another; a stop ends the cycle. -/
def andThen (r : Result) (f : State → Result) : Result :=
  match r with
  | .next s => f s
  | .fault e => .fault e
  | .refused e => .refused e

/-- The meaning of an event in the state it finds. -/
def runEvent (e : PortEvent) (s : State) : Result := exec (decodeEvent s.rxState s.actMode e) s

/-- Stage 2 of R117: the host access. -/
def stageAccess (c : PortCycle) (s : State) : Result :=
  match c.access with
  | some a => runEvent (.access a) s
  | none => .next s

/-- Stage 3 of R117: TxTake, if `tx_busy = 1` after stage 2 and `tx_ready = 1`. -/
def stageTake (c : PortCycle) (s : State) : Result :=
  if c.txReady && s.txBusy then runEvent .txTake s else .next s

/-- Stage 4 of R117: RxByte. -/
def stageRxByte (c : PortCycle) (s : State) : Result :=
  match c.rxData with
  | some b => runEvent (.rxByte b) s
  | none => .next s

/-- Stage 5 of R117: RxTimeout. -/
def stageTimeout (c : PortCycle) (s : State) : Result :=
  if c.rxTimeout then runEvent .rxTimeout s else .next s

/-- A clock cycle (R117): the reset alone, or the stages in order, each seeing the state the previous one left. -/
def clockCycle (c : PortCycle) (s : State) : Result :=
  if c.rst then runEvent .reset s
  else andThen (andThen (andThen (stageAccess c s) (stageTake c)) (stageRxByte c)) (stageTimeout c)

end Sys2Proof.Machine
end

