-- ==== Sys2Proof/Machine/Script.lean ====
section
/-! DEFINITION. Host scripts (30_encoding.md R63): each line and pseudo-instruction as the port events it stands for, the
request bytes the host owes (41_tx_framer.md R72) and its exchange procedure (70_reset_and_hazards.md R129). A script is the
host's, not the MFC's (R40); it becomes `inputs`, one event a clock edge. -/

namespace Sys2Proof.Machine

/-- The word addresses of the registers a script names (20_memory.md R42). -/
def addrStatus : WordAddr := 0x02

/-- `wr REG, v` (R63). -/
def scriptWr (addr : WordAddr) (v : Word) : List PortEvent := [.access (.write addr v)]

/-- `rd REG` (R63). -/
def scriptRd (addr : WordAddr) : List PortEvent := [.access (.read addr)]

/-- `cmd NAME a` (R63): `BusWrite(0x004, {24'b0, a, OP(NAME)})`. -/
def scriptCmd (op a : Nibble) : List PortEvent := [encodeCmd 0 a op]

/-- `tx b` (R63). -/
def scriptTx (b : Byte) : List PortEvent := scriptWr 0x05 (b.setWidth 32)

/-- `ck b` (R63). -/
def scriptCk (b : Byte) : List PortEvent := scriptWr 0x07 (b.setWidth 32)

/-- `fb i` (R63): the read of the window word that holds frame byte `i`. -/
def scriptFb (i : Byte) : List PortEvent := scriptRd ((1 : BitVec 1) ++ i.extractLsb' 2 6)

/-- The bits of that word that are frame byte `i` (R43, R63): `8*(i&3)+7 : 8*(i&3)`. -/
def scriptFbByte (i : Byte) (w : Word) : Byte := w.extractLsb' (8 * (i.toNat % 4)) 8

/-- `rx b0 b1 …` (R63). -/
def scriptRx (bs : List Byte) : List PortEvent := bs.map .rxByte

/-- `take` (R63). -/
def scriptTake : List PortEvent := [.txTake]

/-- `timeout` (R63). -/
def scriptTimeout : List PortEvent := [.rxTimeout]

/-- `waittx` in a script with explicit line stimulus (R63): the take that empties the hold register and one `rd STATUS`. -/
def scriptWaitTx : List PortEvent := scriptTake ++ scriptRd addrStatus

/-- `txb b` (R63). -/
def scriptTxb (b : Byte) : List PortEvent := scriptWaitTx ++ scriptTx b

/-- `send b1 … bn` (R63). -/
def scriptSend (hs : List Byte) : List PortEvent :=
  scriptWaitTx ++ scriptCmd 0x5 0 ++ hs.flatMap scriptTxb ++ scriptWaitTx ++ scriptCmd 0x6 0

/-- `arm op` (R63). -/
def scriptArm (op : Nibble) : List PortEvent := scriptCmd 0x2 op

/-- `waitrx` in a script with explicit line stimulus (R63; 95_test_vectors.md section 3): one `rd STATUS`. -/
def scriptWaitRx : List PortEvent := scriptRd addrStatus

/-- The bytes `h1 … hn` of a request in the layout of section 3 (R72, 90_conflicts.md C1): address, length-or-reserved, class,
subcommand, payload. Their values are host data (R4; log entry 5). -/
def requestBytes (op : Nibble) (address : Byte) (payload : List Byte) : List Byte :=
  address :: Config.lenRes op :: Config.classByte op :: Config.subCmd op :: payload

/-- Steps 1 to 3 and 6 of the host's exchange procedure (R129) with the line's answer written in: arm first, send the
request, let the sink take its last byte, the response arrives, wait, clear the pending bits. -/
def scriptExchange (op : Nibble) (hs response : List Byte) : List PortEvent :=
  scriptArm op ++ scriptSend hs ++ scriptTake ++ scriptRx response ++ scriptWaitRx ++ scriptWr 0x09 0xF

/-- A script as the clock edges still to come: one event an edge. -/
def loadScript (es : List PortEvent) (s : State) : State := { s with inputs := s.inputs ++ es.map PortCycle.ofEvent }

end Sys2Proof.Machine
end

