-- ==== Sys2Proof/Safety.lean ====
section
/-! DEFINITION. What holds in every reachable state (10_state.md R10 to R21; R90, R97), and what of a state can be seen from
outside (R16, R139). Claims are stated in these terms. -/

namespace Sys2Proof.Machine

/-- The first `n` bytes of FB, in order. -/
def fbPrefix (s : State) : Nat → List Byte
  | 0 => []
  | n + 1 => fbPrefix s n ++ [fbByte s n]

/-- The frame received so far, `FB[0 .. rx_count-1]`. -/
def framePrefix (s : State) : List Byte := fbPrefix s s.rxCount.toNat

/-- R12: what `rx_count` can be in each receiver state. -/
def countFits (s : State) : Bool :=
  match s.rxState with
  | .idle => decide (s.rxCount = 0)
  | .hunt => decide (s.rxCount = 0)
  | .accum => decide (1 ≤ s.rxCount.toNat) && decide (s.rxCount.toNat + 1 ≤ s.actLen.toNat)
  | .done => decide (s.rxCount = s.actLen)
  | .error =>
    match s.rxErr with
    | .none => false
    | .checksum => decide (s.rxCount = s.actLen)
    | .incomplete => decide (s.rxCount.toNat + 1 ≤ s.actLen.toNat)
    | .sync => decide (s.rxCount = 0)

/-- R10: there is an error code exactly in ERROR. -/
def errorFits (s : State) : Prop := s.rxErr = .none ↔ s.rxState ≠ .error

/-- R11: `act_len` is 0 only before the first arm, where the receiver is IDLE, and is at least `MIN_LEN` otherwise. -/
def lengthFits (s : State) : Prop :=
  (s.actLen = 0 ∧ s.rxState = .idle) ∨ Config.minLen ≤ s.actLen.toNat

/-- R13 with R88 and R108: `rx_sum` is the sum of the frame so far; it is 0 in DONE and is not 0 after CHECKSUM. -/
def sumFits (s : State) : Prop :=
  s.rxSum = sum8 (framePrefix s) ∧ (s.rxState = .done → s.rxSum = 0) ∧ (s.rxErr = .checksum → s.rxSum ≠ 0)

/-- Every byte of the frame so far has been written since the last reset: none of it is unspecified (R16). -/
def frameWritten (s : State) : Prop := ∀ i, i < s.rxCount.toNat → (fbLookup s.fb i).isSome = true

/-- R90 with R86 and R87: outside the NONE mode a frame begins with the sync byte. -/
def syncFits (s : State) : Prop := s.actMode ≠ .none → s.rxCount ≠ 0 → fbByte s 0 = Config.sync

/-- R14: only the HUNT mode skips bytes. -/
def skipFits (s : State) : Prop := s.actMode ≠ .hunt → s.rxSkip = 0

/-- R17: an empty hold register is 0. -/
def holdFits (s : State) : Prop := s.txBusy = false → s.txHold = 0

/-- The REC registers hold slot `rec_idx` of the frame in FB (R21, R95). -/
def recordIsSlot (s : State) : Prop := s = loadRecord s.recIdx s

/-- R21 and R97: a valid record is a slot of the verified frame, inside its payload; without one the REC registers read 0. -/
def recordFits (s : State) : Prop :=
  (s.recValid = true → s.rxState = .done ∧ slotInRange s.recIdx s.actLen = true ∧ recordIsSlot s) ∧
  (s.recValid = false → s = clearRecord s)

/-- The invariant of every reachable state. -/
structure StateInv (s : State) : Prop where
  memory : Memory.wf s.fb = true
  count : countFits s = true
  error : errorFits s
  length : lengthFits s
  sum : sumFits s
  written : frameWritten s
  sync : syncFits s
  skip : skipFits s
  hold : holdFits s
  record : recordFits s

/-- Two states that nothing outside can tell apart (R16, U2): they agree on everything but the frame buffer's bytes at or
above `rx_count` and the index of its free content. -/
def sameVisible (s t : State) : Prop :=
  t = { s with fb := t.fb, fbEpoch := t.fbEpoch } ∧ ∀ i, i < s.rxCount.toNat → fbByte t i = fbByte s i

/-- A frame of the expected length that the armed receiver accepts (R66, R86 to R88): the first byte suits the sync mode and
all bytes sum to 0. -/
def acceptable (m : SyncMode) (len : Byte) (frame : List Byte) : Prop :=
  frame.length = len.toNat ∧ (m ≠ .none → frame.head? = some Config.sync) ∧ sum8 frame = 0

/-- The write of CMD word `v` has no effect but BAD_CMD (R58, R111), in every state. -/
def reportsBadCmd (v : Word) : Prop :=
  ∀ s : State, exec (decodeAccess (.write 0x01 v)) s =
    .next { s with cmdErr := .badCmd, intPend := s.intPend ||| 0b1000 }

/-- R56 with R58 for a command of one word: `w` reads as `i`, and any other CMD word with the same OP is BAD_CMD. -/
def onlyCmdWord (w : Word) (i : Instr) : Prop :=
  decodeAccess (.write 0x01 w) = i ∧ ∀ v : Word, v.toNat % 16 = w.toNat % 16 → v ≠ w → reportsBadCmd v

end Sys2Proof.Machine
end

