-- ==== Sys2Proof/Certificates/Slice0/Obligations.lean ====
section
/-! DEFINITION. The statements for the provers. They follow the numbered rules of spec/, and a result is written as the next
state itself, so that whatever a record update does not name is unchanged. -/

open Sys2Proof Sys2Proof.Machine

/-! ### Encoding (30_encoding.md) -/

/-- R55 to R62: every well-formed operation is read back from its own encoding, with every operand at every value. A received
byte is read back by a receiver in a state that selects its row. -/
def Obligations.EveryOperationDecodesFromItsEncoding : Prop :=
  ∀ (i : Instr) (st : RxState) (m : SyncMode), i.wellFormed = true → i.selectedBy st m = true →
    decodeEvent st m (encode i) = i

/-- R55 to R62: no bit of a port event is dropped, since the operation it is encodes to that very event. -/
def Obligations.EveryEventIsTheEncodingOfItsOperation : Prop :=
  ∀ (st : RxState) (m : SyncMode) (e : PortEvent), encode (decodeEvent st m e) = e

/-- "Every operation is exactly one of them" (30_encoding.md section 1), row by row: one and only one well-formed operation
that the receiver's state selects has a given port event as its encoding. -/
def Obligations.EveryEventIsExactlyOneOperation : Prop :=
  ∀ (st : RxState) (m : SyncMode) (e : PortEvent),
    ∃ i : Instr, (i.wellFormed = true ∧ i.selectedBy st m = true ∧ encode i = e) ∧
      ∀ j : Instr, j.wellFormed = true → j.selectedBy st m = true → encode j = e → j = i

/-- R56, R42 and R62: a few words of each family as the spec writes them. -/
def Obligations.SpecWordsDecodeToTheirOperations : Prop :=
  decodeAccess (.write 0x01 0x00000000) = .nop ∧ decodeAccess (.write 0x01 0x00000082) = .rxArmOp 8 ∧
  decodeAccess (.write 0x01 0x00000006) = .txEnd ∧ decodeAccess (.write 0x01 0x00000008) = .ckClear ∧
  decodeAccess (.write 0x01 0x000000D9) = .decode 13 ∧ decodeAccess (.write 0x01 0x000000FF) = .softReset ∧
  decodeAccess (.write 0x01 0x00000010) = .cmdNonzeroZ 0 1 0 ∧ decodeAccess (.write 0x01 0x000001F9) = .cmdNonzeroZ 1 0xF 9 ∧
  decodeAccess (.write 0x05 0x000000FF) = .wrTxData 0xFF ∧ decodeAccess (.read 0x08) = .rdCkInfo ∧
  decodeAccess (.read 0x41) = .rdFb 1 ∧ decodeRxByte .hunt .strict 0x55 = .rxbyteHuntStrict 0x55

/-- R58: a CMD word with `Z` not zero, a reserved OP, or an `A` not allowed has no effect but BAD_CMD, and RX_ARM_OP with `A` in
9..15 none but BAD_ARG. `Z`, `A` and `OP` are read off the number of the word. -/
def Obligations.ReservedAndMalformedCommandWordsOnlyReport : Prop :=
  ∀ (v : Word) (s : State),
    let z := v.toNat / 256
    let a := v.toNat / 16 % 16
    let op := v.toNat % 16
    ((z ≠ 0 ∨ (0xA ≤ op ∧ op ≤ 0xE) ∨ (op ∈ [0x0, 0x1, 0x3, 0x4, 0x5, 0x6, 0x7, 0x8] ∧ a ≠ 0) ∨ (op = 0xF ∧ a ≠ 0xF)) →
      exec (decodeAccess (.write 0x01 v)) s = .next { s with cmdErr := .badCmd, intPend := s.intPend ||| 0b1000 }) ∧
    (z = 0 ∧ op = 0x2 ∧ 9 ≤ a →
      exec (decodeAccess (.write 0x01 v)) s = .next { s with cmdErr := .badArg, intPend := s.intPend ||| 0b1000 })

/-- R58: the rows of the reserved opcodes and of the other malformed words, operand by operand. -/
def Obligations.ReservedRowsReportBadCmd : Prop :=
  ∀ (z : BitVec 24) (a op : Nibble) (s : State),
    let t := { s with cmdErr := .badCmd, intPend := s.intPend ||| 0b1000 }
    exec (.reservedA z a) s = .next t ∧ exec (.reservedB z a) s = .next t ∧ exec (.reservedC z a) s = .next t ∧
    exec (.reservedD z a) s = .next t ∧ exec (.reservedE z a) s = .next t ∧ exec (.cmdNonzeroZ z a op) s = .next t

/-- R111 and R59: every CMD, TX_DATA and CK_DATA write but SOFT_RESET either succeeds, with `cmd_err` 0 and `int_pend[3]`
untouched, or changes nothing but `cmd_err` and `int_pend[3]`. -/
def Obligations.CommandWritesSucceedOrOnlyReport : Prop :=
  ∀ (i : Instr) (s : State), (i.format = .cmd ∨ (∃ v, i = .wrTxData v) ∨ (∃ v, i = .wrCkData v)) → i ≠ .softReset →
    ∃ t, exec i s = .next t ∧
      ((t.cmdErr = .ok ∧ t.intPend.getLsbD 3 = s.intPend.getLsbD 3) ∨
       (t.cmdErr ≠ .ok ∧ t = { s with cmdErr := t.cmdErr, intPend := s.intPend ||| 0b1000 }))

/-! ### The checksum (40_checksum.md) -/

/-- R70 (a): a sequence with its checksum appended sums to 0. -/
def Obligations.AppendedChecksumMakesSumZero : Prop :=
  ∀ bs : List Byte, sum8 (bs ++ [checksum bs]) = 0

/-- R66: the comparison of the last byte and the sum over all bytes agree on every frame of one byte or more. -/
def Obligations.FrameValidExactlyWhenSumIsZero : Prop :=
  ∀ (body : List Byte) (last : Byte), verifyFrame body last = true ↔ sum8 (body ++ [last]) = 0

/-- R70 (b) and (d): the sum is built byte by byte, and the order of the bytes plays no part. -/
def Obligations.SumIsIncrementalAndIgnoresOrder : Prop :=
  (∀ (bs : List Byte) (b : Byte), sum8 (bs ++ [b]) = sum8 bs + b) ∧ (∀ bs cs : List Byte, bs.Perm cs → sum8 bs = sum8 cs)

/-- R70 (c): a change of exactly one byte of a valid frame is always seen; bytes of 0 put in or taken out never are. -/
def Obligations.OneChangedByteIsDetected : Prop :=
  ∀ (front back : List Byte) (b c : Byte),
    (sum8 (front ++ b :: back) = 0 → b ≠ c → sum8 (front ++ c :: back) ≠ 0) ∧
    (sum8 (front ++ 0 :: back) = sum8 (front ++ back))

/-- R67: a write at 0x01C adds its low byte, counts it up to 255 and succeeds, in every state. -/
def Obligations.CkDataWriteAddsOneByte : Prop :=
  ∀ (v : Word) (s : State), decodeAccess (.write 0x07 v) = .wrCkData v ∧ exec (.wrCkData v) s =
    .next { s with ckSum := s.ckSum + BitVec.ofNat 8 v.toNat, ckCnt := BitVec.ofNat 8 (min (s.ckCnt.toNat + 1) 255), cmdErr := .ok }

/-- R68: CK_CLEAR, with the words of its opcode that are BAD_CMD; and R69: a read at 0x020 returns count, validator, generator and
sum, and changes nothing. The word returned is noted in `rdOut`, the model's own record (log entry 3). -/
def Obligations.CkClearAndCkInfo : Prop :=
  onlyCmdWord 0x00000008 .ckClear ∧ decodeAccess (.read 0x08) = .rdCkInfo ∧
  ∀ s : State, exec .ckClear s = .next { s with ckSum := 0, ckCnt := 0, cmdErr := .ok } ∧
    exec .rdCkInfo s = .next { s with rdOut := s.rdOut ++
      [s.ckCnt ++ (0 : BitVec 7) ++ (if s.ckSum = 0 then 1 else 0 : BitVec 1) ++ BitVec.ofNat 8 (256 - s.ckSum.toNat) ++ s.ckSum] }

/-! ### The transmit framer (41_tx_framer.md) -/

/-- R73: TX_START, its three errors in their order, and its effect. -/
def Obligations.TxStartOpensFrameWithSyncByte : Prop :=
  onlyCmdWord 0x00000005 .txStart ∧
  ∀ s : State,
    (s.txOpen = true → exec .txStart s = .next { s with cmdErr := .txSeq, intPend := s.intPend ||| 0b1000 }) ∧
    (s.txOpen = false → s.txBusy = true →
      exec .txStart s = .next { s with cmdErr := .txOverrun, intPend := s.intPend ||| 0b1000 }) ∧
    (s.txOpen = false → s.txBusy = false → exec .txStart s =
      .next { s with txOpen := true, txHold := 0x55, txBusy := true, txSum := 0x55, txCnt := 1, cmdErr := .ok })

/-- R74: a write at 0x014, its two errors in their order, and its effect. -/
def Obligations.TxDataAppendsHostByte : Prop :=
  ∀ (v : Word) (s : State),
    decodeAccess (.write 0x05 v) = .wrTxData v ∧
    (s.txOpen = false → exec (.wrTxData v) s = .next { s with cmdErr := .txSeq, intPend := s.intPend ||| 0b1000 }) ∧
    (s.txOpen = true → s.txBusy = true →
      exec (.wrTxData v) s = .next { s with cmdErr := .txOverrun, intPend := s.intPend ||| 0b1000 }) ∧
    (s.txOpen = true → s.txBusy = false → exec (.wrTxData v) s =
      .next { s with txHold := BitVec.ofNat 8 v.toNat, txBusy := true, txSum := s.txSum + BitVec.ofNat 8 v.toNat,
                     txCnt := BitVec.ofNat 8 (min (s.txCnt.toNat + 1) 255), cmdErr := .ok })

/-- R75: TX_END, its three errors in their order, and its effect; `tx_sum` becomes 0. -/
def Obligations.TxEndAppendsChecksum : Prop :=
  onlyCmdWord 0x00000006 .txEnd ∧
  ∀ s : State,
    (s.txOpen = false → exec .txEnd s = .next { s with cmdErr := .txSeq, intPend := s.intPend ||| 0b1000 }) ∧
    (s.txOpen = true → s.txBusy = true →
      exec .txEnd s = .next { s with cmdErr := .txOverrun, intPend := s.intPend ||| 0b1000 }) ∧
    (s.txOpen = true → s.txBusy = false → exec .txEnd s =
      .next { s with txOpen := false, txHold := BitVec.ofNat 8 (256 - s.txSum.toNat), txBusy := true, txSum := 0,
                     txCnt := BitVec.ofNat 8 (min (s.txCnt.toNat + 1) 255), cmdErr := .ok })

/-- R76: TX_ABORT discards the held byte and keeps `tx_sum`, `tx_cnt` and the pending bits; BAD_CMD is its only error. -/
def Obligations.TxAbortDiscardsHeldByte : Prop :=
  onlyCmdWord 0x00000007 .txAbort ∧
  ∀ s : State, exec .txAbort s = .next { s with txOpen := false, txBusy := false, txHold := 0, cmdErr := .ok }

/-- R77: TxTake hands the held byte to the line and sets TX_READY. -/
def Obligations.TxTakeHandsByteToTheLine : Prop :=
  ∀ s : State, s.txBusy = true → exec .txTake s =
    .next { s with txOut := s.txOut ++ [s.txHold], txBusy := false, txHold := 0, intPend := s.intPend ||| 0b0100 }

/-- R71: a byte leaves the hold register for the line only by a TxTake. That `txOut` stays over SOFT_RESET and RESET is the model's
choice (log entry 3). -/
def Obligations.BytesLeaveOnlyByTake : Prop :=
  ∀ (i : Instr) (s t : State), exec i s = .next t →
    t.txOut = s.txOut ∨ (i = .txTake ∧ s.txBusy = true ∧ t.txOut = s.txOut ++ [s.txHold])

/-- R72: the bytes a TX_START .. TX_END sequence hands to the sink, each taken before the next is written: the sync byte, the
host's bytes in order, the checksum of them all. The sequence is `send` of R63 followed by the take of the last byte, as inputs of the model (log entry 2). -/
def Obligations.SentFrameIsSyncHostBytesChecksum : Prop :=
  ∀ (s : State) (hs : List Byte), s.txOpen = false → s.txBusy = false → s.inputs = [] →
    ∃ n t, Host.Core.run Sys2Proof.core n (loadScript (scriptSend hs ++ scriptTake) s) = .next t ∧
      t.inputs = [] ∧ t.txOpen = false ∧ t.txBusy = false ∧ t.cmdErr = .ok ∧
      t.txOut = s.txOut ++ 0x55 :: (hs ++ [checksum (0x55 :: hs)]) ∧ sum8 (0x55 :: (hs ++ [checksum (0x55 :: hs)])) = 0

/-! ### The receive framer (42_rx_framer.md) -/

/-- R80: RX_ARM with a legal length arms with it, and with a length below 7 only reports LEN_RANGE; other words of its opcode are
BAD_CMD. -/
def Obligations.RxArmLatchesLengthAndMode : Prop :=
  onlyCmdWord 0x00000001 .rxArm ∧
  ∀ s : State,
    (7 ≤ s.rxLen.toNat → exec .rxArm s =
      .next { s with actLen := s.rxLen, actMode := s.syncMode, rxState := .hunt, rxErr := .none, rxCount := 0, rxSum := 0
                     rxSkip := 0, rxDrop := false, recValid := false, recIdx := 0, recSec := 0, recMin := 0, recHour := 0
                     recDay := 0, recMon := 0, recDow := 0, recYear := 0, recVal := 0, cmdErr := .ok }) ∧
    (s.rxLen.toNat < 7 → exec .rxArm s = .next { s with cmdErr := .lenRange, intPend := s.intPend ||| 0b1000 })

/-- R81 with the table of R38: RX_ARM_OP arms with the operation's response length; an index 9..15 only reports BAD_ARG, and a word
with `Z` not zero BAD_CMD. -/
def Obligations.RxArmOpLatchesTableLength : Prop :=
  (∀ v : Word, v.toNat % 16 = 2 → 256 ≤ v.toNat → reportsBadCmd v) ∧
  (∀ a : Nibble, decodeAccess (.write 0x01 (BitVec.ofNat 32 (16 * a.toNat + 2))) = .rxArmOp a) ∧
  ∀ (a : Nibble) (s : State),
    (∀ len : Byte, [11, 15, 7, 7, 7, 10, 7, 11, 147][a.toNat]? = some len → exec (.rxArmOp a) s =
      .next { s with actLen := len, actMode := s.syncMode, rxState := .hunt, rxErr := .none, rxCount := 0, rxSum := 0
                     rxSkip := 0, rxDrop := false, recValid := false, recIdx := 0, recSec := 0, recMin := 0, recHour := 0
                     recDay := 0, recMon := 0, recDow := 0, recYear := 0, recVal := 0, cmdErr := .ok }) ∧
    (9 ≤ a.toNat → exec (.rxArmOp a) s = .next { s with cmdErr := .badArg, intPend := s.intPend ||| 0b1000 })

/-- R82: RX_CLEAR switches the receiver off and keeps `act_len` and `act_mode`; BAD_CMD is its only error. -/
def Obligations.RxClearSwitchesReceiverOff : Prop :=
  onlyCmdWord 0x00000003 .rxClear ∧
  ∀ s : State, exec .rxClear s =
    .next { s with rxState := .idle, rxErr := .none, rxCount := 0, rxSum := 0, rxSkip := 0, rxDrop := false, recValid := false
                   recIdx := 0, recSec := 0, recMin := 0, recHour := 0, recDay := 0, recMon := 0, recDow := 0, recYear := 0
                   recVal := 0, cmdErr := .ok }

/-- R83 and R89: a timeout ends HUNT and ACCUM with INCOMPLETE, keeping what was received, and does nothing elsewhere; the
command also sets `cmd_err` to 0, the input does not touch it. Other words of the command's opcode are BAD_CMD. -/
def Obligations.TimeoutEndsHuntAndAccumOnly : Prop :=
  onlyCmdWord 0x00000004 .rxTimeoutCmd ∧
  ∀ s : State,
    (s.rxState = .hunt ∨ s.rxState = .accum →
      exec .rxTimeoutCmd s = .next { s with rxState := .error, rxErr := .incomplete, intPend := s.intPend ||| 0b0010, cmdErr := .ok } ∧
      exec .rxTimeoutEvt s = .next { s with rxState := .error, rxErr := .incomplete, intPend := s.intPend ||| 0b0010 }) ∧
    (s.rxState = .idle ∨ s.rxState = .done ∨ s.rxState = .error →
      exec .rxTimeoutCmd s = .next { s with cmdErr := .ok } ∧ exec .rxTimeoutEvt s = .next s)

/-- R84: a byte outside a frame only sets `rx_drop`. -/
def Obligations.ByteOutsideFrameIsDropped : Prop :=
  ∀ (b : Byte) (s : State), s.rxState = .idle ∨ s.rxState = .done ∨ s.rxState = .error →
    exec (.rxbyteDrop b) s = .next { s with rxDrop := true }

/-- R85, R86 and R87: what the first byte does in each sync mode. The one byte stored is `FB[0]`. -/
def Obligations.FirstByteFollowsSyncMode : Prop :=
  ∀ (b : Byte) (s : State), s.rxState = .hunt →
    let starts := fun r : Result => ∃ t, r = .next t ∧
      t = { s with fb := t.fb, rxCount := 1, rxSum := b, rxState := .accum } ∧ fbByte t 0 = b ∧
      ∀ j, j ≠ 0 → fbByte t j = fbByte s j
    (s.actMode = .none → starts (exec (.rxbyteHuntNone b) s)) ∧
    (s.actMode = .strict → b = 0x55 → starts (exec (.rxbyteHuntStrict b) s)) ∧
    (s.actMode = .strict → b ≠ 0x55 → exec (.rxbyteHuntStrict b) s =
      .next { s with rxState := .error, rxErr := .sync, intPend := s.intPend ||| 0b0010 }) ∧
    (s.actMode = .hunt → b = 0x55 → starts (exec (.rxbyteHuntHunt b) s)) ∧
    (s.actMode = .hunt → b ≠ 0x55 → exec (.rxbyteHuntHunt b) s =
      .next { s with rxSkip := BitVec.ofNat 8 (min (s.rxSkip.toNat + 1) 255) })

/-- R88: a byte in ACCUM is stored at `FB[rx_count]` and counted, and at the expected length the sum decides. R88 has `rx_count` at
most 254; that a count of 255, which no run reaches, matches no length and wraps to 0 is the model's choice (log entry 12). -/
def Obligations.AccumulatedByteIsStoredAndValidated : Prop :=
  ∀ (b : Byte) (s : State), s.rxState = .accum → ∃ t, exec (.rxbyteAccum b) s = .next t ∧
    t = { s with fb := t.fb, rxState := t.rxState, rxErr := t.rxErr, intPend := t.intPend
                 rxCount := BitVec.ofNat 8 (s.rxCount.toNat + 1), rxSum := s.rxSum + b } ∧
    fbByte t (fbNext s) = b ∧ (∀ j, j ≠ fbNext s → fbByte t j = fbByte s j) ∧
    (s.rxCount.toNat + 1 ≠ s.actLen.toNat → t.rxState = .accum ∧ t.rxErr = s.rxErr ∧ t.intPend = s.intPend) ∧
    (s.rxCount.toNat + 1 = s.actLen.toNat → s.rxSum + b = 0 →
      t.rxState = .done ∧ t.rxErr = s.rxErr ∧ t.intPend = s.intPend ||| 0b0001) ∧
    (s.rxCount.toNat + 1 = s.actLen.toNat → s.rxSum + b ≠ 0 →
      t.rxState = .error ∧ t.rxErr = .checksum ∧ t.intPend = s.intPend ||| 0b0010)

/-- R86 to R90: an armed receiver that is given a whole frame of the expected length ends in DONE with exactly that frame in FB
and RX_DONE pending; if only the sum is wrong it ends in ERROR CHECKSUM with the same frame in FB. The bytes
are inputs of the model (log entry 2). -/
def Obligations.ReceivedFrameEndsInDoneOrChecksumError : Prop :=
  ∀ (s : State) (frame : List Byte), StateInv s → s.rxState = .hunt → s.inputs = [] → frame.length = s.actLen.toNat →
    (s.actMode ≠ .none → frame.head? = some 0x55) →
    ∃ n t, Host.Core.run Sys2Proof.core n (loadScript (scriptRx frame) s) = .next t ∧ t.inputs = [] ∧ framePrefix t = frame ∧
      t.rxCount = s.actLen ∧ t.rxSum = sum8 frame ∧
      (sum8 frame = 0 → t.rxState = .done ∧ t.intPend = s.intPend ||| 0b0001) ∧
      (sum8 frame ≠ 0 → t.rxState = .error ∧ t.rxErr = .checksum ∧ t.intPend = s.intPend ||| 0b0010)

/-- R90: a frame reaches DONE only by a byte in ACCUM that completes the expected length with sum 0 (R88). -/
def Obligations.DoneIsReachedOnlyByACompletedValidFrame : Prop :=
  ∀ (i : Instr) (s t : State), exec i s = .next t → s.rxState ≠ .done → t.rxState = .done →
    ∃ b, i = .rxbyteAccum b ∧ s.rxState = .accum ∧ s.rxCount.toNat + 1 = s.actLen.toNat ∧ s.rxSum + b = 0

/-- R11: the latched length and mode change only by an arm or a reset; and a receiver event reads the latched copies alone, so
that new values of RX_LEN and CTRL change nothing of what it does. -/
def Obligations.LatchedConfigurationIsReadUntilNextArm : Prop :=
  (∀ (i : Instr) (s t : State), exec i s = .next t → (t.actLen ≠ s.actLen ∨ t.actMode ≠ s.actMode) →
    i = .rxArm ∨ (∃ a, i = .rxArmOp a) ∨ i = .softReset ∨ i = .reset) ∧
  (∀ (i : Instr) (s t : State) (m : SyncMode) (len : Byte), i.format = .port → i ≠ .reset → exec i s = .next t →
    exec i { s with syncMode := m, rxLen := len } = .next { t with syncMode := m, rxLen := len })

/-! ### The record decoder (43_record_decoder.md) -/

/-- R95: DECODE's three errors in their order, and its effect with the fields of R93 written as the source's formulas. -/
def Obligations.DecodeLoadsVerifiedRecordSlot : Prop :=
  (∀ v : Word, v.toNat % 16 = 9 → 256 ≤ v.toNat → reportsBadCmd v) ∧
  (∀ k : Nibble, decodeAccess (.write 0x01 (BitVec.ofNat 32 (16 * k.toNat + 9))) = .decode k) ∧
  ∀ (k : Nibble) (s : State),
    let r := fun i => fbByte s (6 + 10 * k.toNat + i)
    (s.rxState ≠ .done → exec (.decode k) s = .next { s with cmdErr := .unverified, intPend := s.intPend ||| 0b1000 }) ∧
    (s.rxState = .done → s.actLen.toNat < 10 * k.toNat + 17 →
      exec (.decode k) s = .next { s with cmdErr := .recRange, intPend := s.intPend ||| 0b1000 }) ∧
    (s.rxState = .done → 10 * k.toNat + 17 ≤ s.actLen.toNat → exec (.decode k) s =
      .next { s with recSec := r 0, recHour := BitVec.ofNat 5 ((r 1).toNat / 8)
                     recMin := BitVec.ofNat 6 ((r 1).toNat % 8 * 8 + (r 2).toNat / 32)
                     recDay := BitVec.ofNat 5 ((r 2).toNat % 32), recMon := BitVec.ofNat 5 ((r 3).toNat / 8)
                     recDow := BitVec.ofNat 3 ((r 3).toNat % 8)
                     recYear := BitVec.ofNat 16 ((r 4).toNat * 256 + (r 5).toNat)
                     recVal := BitVec.ofNat 32 ((((r 9).toNat * 256 + (r 8).toNat) * 256 + (r 7).toNat) * 256 + (r 6).toNat)
                     recValid := true, recIdx := k, cmdErr := .ok })

/-- R93: "Every bit of `r[0..9]` goes to exactly one field": two different records never decode to the same fields, and every
choice of fields is some record's. -/
def Obligations.RecordFieldsAndRecordBytesCorrespond : Prop :=
  let fields := fun r : Fin 10 → Byte => (recSecond (r 0), recHourOf (r 1), recMinuteOf (r 1) (r 2), recDayOf (r 2),
    recMonthOf (r 3), recDowOf (r 3), recYearOf (r 4) (r 5), recValueOf (r 6) (r 7) (r 8) (r 9))
  (∀ r q : Fin 10 → Byte, fields r = fields q → r = q) ∧
  (∀ (sec : BitVec 8) (hour : BitVec 5) (min : BitVec 6) (day mon : BitVec 5) (dow : BitVec 3) (year : BitVec 16)
    (val : BitVec 32), ∃ r, fields r = (sec, hour, min, day, mon, dow, year, val))

/-- R94: slot `k` is in range exactly when `k < NSLOT(L) = floor((L - 7) / 10)`, for every legal length; 14 slots for 147. -/
def Obligations.SlotsInRangeAreCounted : Prop :=
  (∀ (k : Nibble) (len : Byte), slotInRange k len = true ↔ k.toNat < nslot len) ∧ nslot 147 = 14 ∧
  (∀ (k : Nibble) (len : Byte), slotInRange k len = true → slotBase k + 10 ≤ len.toNat - 1)

/-! ### Control and registers (44_control.md, 10_state.md) -/

/-- R98: NOP's whole effect is `cmd_err <- 0`; every other word of its opcode is BAD_CMD. -/
def Obligations.NopOnlyReportsSuccess : Prop :=
  onlyCmdWord 0x00000000 .nop ∧
  ∀ s : State, exec .nop s = .next { s with cmdErr := .ok }

/-- R99 and R125: SOFT_RESET and RESET put every element of R8 at its reset value, one by one; of FB, which has none, nothing is
said (R126). That what the line took, what was read and the inputs to come stay is the model's choice (log entries 2 and 3). -/
def Obligations.ResetsPutEveryElementAtItsResetValue : Prop :=
  onlyCmdWord 0x000000FF .softReset ∧
  ∀ (i : Instr) (s : State), i = .softReset ∨ i = .reset → ∃ t, exec i s = .next t ∧
    t = { syncMode := .strict, rxLen := 0, rxState := .idle, rxErr := .none, actLen := 0, actMode := .strict, rxCount := 0
          rxSum := 0, rxSkip := 0, rxDrop := false, fb := t.fb, txOpen := false, txBusy := false, txHold := 0, txSum := 0
          txCnt := 0, ckSum := 0, ckCnt := 0, intPend := 0, intEn := 0, cmdErr := .ok, recValid := false, recIdx := 0
          recSec := 0, recMin := 0, recHour := 0, recDay := 0, recMon := 0, recDow := 0, recYear := 0, recVal := 0
          fbEpoch := t.fbEpoch, inputs := s.inputs, txOut := s.txOut, rdOut := s.rdOut }

/-- R125: at a clock edge with `rst = 1` the reset happens and every other event of that edge is lost (R117).
That the end of an edge is a step is the model's choice (log entry 2). -/
def Obligations.ResetEdgeLosesEveryOtherEvent : Prop :=
  ∀ (s : State) (c : PortCycle) (rest : List PortCycle), s.inputs = c :: rest → c.rst = true →
    ∃ t, Host.Core.run Sys2Proof.core 2 s = .next t ∧ exec .reset { s with inputs := rest } = .next t

/-- R125 and R127: what every register reads, and what the outputs are, after either reset. -/
def Obligations.RegistersAndOutputsAfterReset : Prop :=
  ∀ (i : Instr) (s t : State), i = .softReset ∨ i = .reset → exec i s = .next t →
    busRead 0x00 t = 0x00000001 ∧ busRead 0x02 t = 0x00001000 ∧ busRead 0x03 t = 0 ∧ busRead 0x04 t = 0 ∧
    busRead 0x06 t = 0 ∧ busRead 0x08 t = 0x00010000 ∧ busRead 0x09 t = 0 ∧ busRead 0x0A t = 0 ∧ busRead 0x0B t = 0 ∧
    busRead 0x0C t = 0 ∧ busRead 0x0D t = 0 ∧ busRead 0x0E t = 0x4D464301 ∧ busRead 0x01 t = 0 ∧ busRead 0x05 t = 0 ∧
    busRead 0x07 t = 0 ∧ (∀ addr : WordAddr, 0x0F ≤ addr.toNat → busRead addr t = 0) ∧
    irq t = false ∧ txValid t = false ∧ txData t = 0

/-- R100 to R103: what the control-register writes at 0x000, 0x00C, 0x028 and 0x024 store; CTRL ignores the reserved 0b11, and `irq`
follows INT_EN at once. -/
def Obligations.ControlWritesStoreTheirFields : Prop :=
  ∀ (v : Word) (s : State),
    (decodeAccess (.write 0x00 v) = .wrCtrl v ∧ decodeAccess (.write 0x03 v) = .wrRxLen v ∧
      decodeAccess (.write 0x0A v) = .wrIntEn v ∧ decodeAccess (.write 0x09 v) = .wrIntPend v) ∧
    (v.toNat % 4 = 0 → exec (.wrCtrl v) s = .next { s with syncMode := .none }) ∧
    (v.toNat % 4 = 1 → exec (.wrCtrl v) s = .next { s with syncMode := .strict }) ∧
    (v.toNat % 4 = 2 → exec (.wrCtrl v) s = .next { s with syncMode := .hunt }) ∧
    (v.toNat % 4 = 3 → exec (.wrCtrl v) s = .next s) ∧
    exec (.wrRxLen v) s = .next { s with rxLen := BitVec.ofNat 8 v.toNat } ∧
    exec (.wrIntEn v) s = .next { s with intEn := BitVec.ofNat 4 v.toNat } ∧
    irq { s with intEn := BitVec.ofNat 4 v.toNat } = decide (s.intPend &&& BitVec.ofNat 4 v.toNat ≠ 0) ∧
    exec (.wrIntPend v) s = .next { s with intPend := s.intPend &&& ~~~(BitVec.ofNat 4 v.toNat) }

/-- R105: a write to a read-only register, a reserved offset or the FB window, decoded from its offset, changes no state. -/
def Obligations.WritesToReadOnlyOffsetsAreIgnored : Prop :=
  (∀ (addr : WordAddr) (v : Word) (s : State), exec (.wrIgnored addr v) s = .next s) ∧
  (∀ (addr : WordAddr) (v : Word),
    addr.toNat ∈ [0x02, 0x04, 0x06, 0x08, 0x0B, 0x0C, 0x0D, 0x0E] ∨ 0x0F ≤ addr.toNat →
    decodeAccess (.write addr v) = .wrIgnored addr v)

/-- R104 and R49: a host read returns the word at its offset and changes no state of R8; each of the three read rows. The word
returned is noted in `rdOut`, the model's own record (log entry 3). -/
def Obligations.ReadsReturnTheirWordAndChangeNothing : Prop :=
  (∀ (addr : WordAddr) (s : State), exec (decodeAccess (.read addr)) s = .next { s with rdOut := s.rdOut ++ [busRead addr s] }) ∧
  (∀ (addr : WordAddr) (s : State), addr.toNat < 0x40 → exec (.rdReg addr) s = .next { s with rdOut := s.rdOut ++ [busRead addr s] }) ∧
  (∀ s : State, exec .rdCkInfo s = .next { s with rdOut := s.rdOut ++ [busRead 0x08 s] })

/-- R43: FB window word `j` packs bytes `4j .. 4j+3` little-endian, each masked to 0 at or above `rx_count`; the read changes
nothing. The word returned is noted in `rdOut`, the model's own record (log entry 3). -/
def Obligations.FrameBufferWindowPacksMaskedBytes : Prop :=
  ∀ (j : BitVec 6) (s : State), decodeAccess (.read (BitVec.ofNat 7 (0x40 + j.toNat))) = .rdFb j ∧ ∃ w : Word, exec (.rdFb j) s = .next { s with rdOut := s.rdOut ++ [w] } ∧
    ∀ k, k < 4 → w.toNat / 256 ^ k % 256 =
      (if 4 * j.toNat + k < s.rxCount.toNat then (fbByte s (4 * j.toNat + k)).toNat else 0)

/-- R24: the bits of STATUS, each field at its place, and the reserved bits 0; with the numbers of the codes in its fields (R9, R22,
R108, R109). -/
def Obligations.StatusBitsAreAtTheirPlaces : Prop :=
  ((rxStateCode .idle).toNat = 0 ∧ (rxStateCode .hunt).toNat = 1 ∧ (rxStateCode .accum).toNat = 2 ∧
    (rxStateCode .done).toNat = 3 ∧ (rxStateCode .error).toNat = 4) ∧
  ((rxErrCode .none).toNat = 0 ∧ (rxErrCode .checksum).toNat = 1 ∧ (rxErrCode .incomplete).toNat = 2 ∧
    (rxErrCode .sync).toNat = 3) ∧
  ((syncCode .none).toNat = 0 ∧ (syncCode .strict).toNat = 1 ∧ (syncCode .hunt).toNat = 2) ∧
  ((cmdErrCode .ok).toNat = 0 ∧ (cmdErrCode .badCmd).toNat = 1 ∧ (cmdErrCode .badArg).toNat = 2 ∧
    (cmdErrCode .lenRange).toNat = 3 ∧ (cmdErrCode .txSeq).toNat = 4 ∧ (cmdErrCode .txOverrun).toNat = 5 ∧
    (cmdErrCode .unverified).toNat = 6 ∧ (cmdErrCode .recRange).toNat = 7) ∧
  ∀ s : State, (busRead 0x02 s).toNat = (rxStateCode s.rxState).toNat + 16 * (rxErrCode s.rxErr).toNat
    + 256 * s.txOpen.toNat + 512 * s.txBusy.toNat + 1024 * s.recValid.toNat + 2048 * s.rxDrop.toNat
    + 4096 * (syncCode s.actMode).toNat + 65536 * (cmdErrCode s.cmdErr).toNat + 16777216 * s.recIdx.toNat

/-- What every register but STATUS and CK_INFO reads in every state: the control registers (R22, R25, R31, R32), the fields of the
information and record registers at their places (R26, R28, R33 to R35), ID (R36), and 0 at the write-only and the reserved offsets
(R23, R27, R29, R37). -/
def Obligations.InfoAndRecordRegistersAreComposed : Prop :=
  ∀ s : State,
    (busRead 0x04 s).toNat = s.rxCount.toNat + 2 ^ 8 * s.actLen.toNat + 2 ^ 16 * s.rxSum.toNat + 2 ^ 24 * s.rxSkip.toNat ∧
    (busRead 0x06 s).toNat = s.txSum.toNat + 2 ^ 8 * s.txCnt.toNat + 2 ^ 16 * s.txHold.toNat ∧
    (busRead 0x0B s).toNat = s.recSec.toNat + 2 ^ 8 * s.recMin.toNat + 2 ^ 16 * s.recHour.toNat + 2 ^ 24 * s.recDay.toNat ∧
    (busRead 0x0C s).toNat = s.recMon.toNat + 2 ^ 8 * s.recDow.toNat + 2 ^ 16 * s.recYear.toNat ∧
    busRead 0x0D s = s.recVal ∧
    busRead 0x00 s = (match s.syncMode with | .none => 0 | .strict => 1 | .hunt => 2) ∧
    (busRead 0x03 s).toNat = s.rxLen.toNat ∧ (busRead 0x09 s).toNat = s.intPend.toNat ∧
    (busRead 0x0A s).toNat = s.intEn.toNat ∧ busRead 0x0E s = 0x4D464301 ∧
    busRead 0x01 s = 0 ∧ busRead 0x05 s = 0 ∧ busRead 0x07 s = 0 ∧
    ∀ addr : WordAddr, 0x0F ≤ addr.toNat → addr.toNat < 0x40 → busRead addr s = 0

/-- R50: a second write of the same value to CTRL, RX_LEN, INT_EN or INT_PEND leaves the state the first one left. -/
def Obligations.ControlWritesAreIdempotent : Prop :=
  ∀ (v : Word) (i : Instr) (s t : State), i = .wrCtrl v ∨ i = .wrRxLen v ∨ i = .wrIntEn v ∨ i = .wrIntPend v →
    exec i s = .next t → exec i t = .next t

/-- R39 and R106: the outputs in every state: `irq` is the OR of pending AND enable, bit by bit, and both resets make it 0;
`tx_valid` is `tx_busy`, and `tx_data` is `tx_hold`. -/
def Obligations.IrqIsOrOfPendingAndEnabled : Prop :=
  (∀ (i : Instr) (s t : State), i = .softReset ∨ i = .reset → exec i s = .next t → irq t = false) ∧
  (∀ s : State, txValid s = s.txBusy ∧ txData s = s.txHold) ∧
  ∀ s : State, irq s = ((s.intPend.getLsbD 0 && s.intEn.getLsbD 0) || (s.intPend.getLsbD 1 && s.intEn.getLsbD 1)
    || (s.intPend.getLsbD 2 && s.intEn.getLsbD 2) || (s.intPend.getLsbD 3 && s.intEn.getLsbD 3))

/-! ### Errors, interrupts and the order of events (60_exceptions.md) -/

/-- R113: a pending bit that was 0 is set by its own source and by nothing else; and each source sets its bit. -/
def Obligations.PendingBitsAreSetByTheirSourcesOnly : Prop :=
  ∀ (i : Instr) (s t : State), exec i s = .next t →
    (s.intPend.getLsbD 0 = false → t.intPend.getLsbD 0 = true → s.rxState ≠ .done ∧ t.rxState = .done) ∧
    (s.intPend.getLsbD 1 = false → t.intPend.getLsbD 1 = true → s.rxState ≠ .error ∧ t.rxState = .error) ∧
    (s.intPend.getLsbD 2 = false → t.intPend.getLsbD 2 = true → i = .txTake) ∧
    (s.intPend.getLsbD 3 = false → t.intPend.getLsbD 3 = true →
      t.cmdErr ≠ .ok ∧ (i.format = .cmd ∨ ∃ v, i = .wrTxData v)) ∧
    (s.rxState ≠ .done → t.rxState = .done → t.intPend.getLsbD 0 = true) ∧
    (s.rxState ≠ .error → t.rxState = .error → t.intPend.getLsbD 1 = true) ∧
    (i = .txTake → t.intPend.getLsbD 2 = true) ∧
    ((i.format = .cmd ∨ ∃ v, i = .wrTxData v) → t.cmdErr ≠ .ok → t.intPend.getLsbD 3 = true)

/-- R114: a pending bit stays 1 until the host writes 1 to it in INT_PEND, or a reset. -/
def Obligations.PendingBitsStayUntilCleared : Prop :=
  ∀ (i : Instr) (s t : State) (k : Nat), exec i s = .next t → s.intPend.getLsbD k = true → t.intPend.getLsbD k = false →
    (∃ v : Word, i = .wrIntPend v ∧ v.getLsbD k = true) ∨ i = .softReset ∨ i = .reset

/-- R20: `cmd_err` is replaced by every CMD, TX_DATA and CK_DATA write, whatever it held; no other write, no read and no line
event but a reset changes it. -/
def Obligations.CommandResultIsWrittenByCommandsOnly : Prop :=
  (∀ (i : Instr) (s t : State), exec i s = .next t → t.cmdErr ≠ s.cmdErr →
    i.format = .cmd ∨ (∃ v, i = .wrTxData v) ∨ (∃ v, i = .wrCkData v) ∨ i = .reset) ∧
  (∀ (i : Instr) (s t : State) (e : CmdErr), i.format = .cmd ∨ (∃ v, i = .wrTxData v) ∨ (∃ v, i = .wrCkData v) →
    exec i s = .next t → exec i { s with cmdErr := e } = .next t)

/-- R119: the receiver leaves ERROR only by RX_ARM, RX_ARM_OP, RX_CLEAR, SOFT_RESET or reset. -/
def Obligations.ErrorIsLeftOnlyByArmClearOrReset : Prop :=
  ∀ (i : Instr) (s t : State), exec i s = .next t → s.rxState = .error → t.rxState ≠ .error →
    i = .rxArm ∨ (∃ a, i = .rxArmOp a) ∨ i = .rxClear ∨ i = .softReset ∨ i = .reset

/-- R16: only the receiver writes FB: a first byte at `FB[0]`, a further one at `FB[rx_count]`; every other operation leaves
every byte of FB as it was. Of a reset, which leaves FB's content unspecified (R126), nothing is said. -/
def Obligations.OnlyTheReceiverWritesFrameBuffer : Prop :=
  ∀ (i : Instr) (s t : State), exec i s = .next t → i ≠ .softReset → i ≠ .reset → ∀ j,
    (∀ b, i = .rxbyteAccum b → j ≠ fbNext s) →
    (∀ b, i = .rxbyteHuntNone b ∨ i = .rxbyteHuntStrict b ∨ i = .rxbyteHuntHunt b → j ≠ 0) →
    fbByte t j = fbByte s j

/-- R15: `rx_drop` is set by a byte that arrives in IDLE, DONE or ERROR and by nothing else; it is sticky, cleared only by an arm, by
RX_CLEAR and by reset, and each of these clears it where it succeeds. -/
def Obligations.DropFlagIsSticky : Prop :=
  ∀ (i : Instr) (s t : State), exec i s = .next t →
    ((∃ b, i = .rxbyteDrop b) → t.rxDrop = true) ∧
    (s.rxDrop = false → t.rxDrop = true → (∃ b, i = .rxbyteDrop b) ∧ (s.rxState = .idle ∨ s.rxState = .done ∨ s.rxState = .error)) ∧
    (s.rxDrop = true → t.rxDrop = false →
      i = .rxArm ∨ (∃ a, i = .rxArmOp a) ∨ i = .rxClear ∨ i = .softReset ∨ i = .reset) ∧
    (i = .rxArm ∨ (∃ a, i = .rxArmOp a) ∨ i = .rxClear ∨ i = .softReset ∨ i = .reset → t.cmdErr = .ok → t.rxDrop = false)

/-- R133: every arm that succeeds, RX_CLEAR and both resets make the previous frame unreadable and clear the REC registers. -/
def Obligations.RearmingHidesThePreviousFrame : Prop :=
  ∀ (i : Instr) (s t : State), i = .rxArm ∨ (∃ a, i = .rxArmOp a) ∨ i = .rxClear ∨ i = .softReset ∨ i = .reset →
    exec i s = .next t → t.cmdErr = .ok →
    (∀ addr : WordAddr, 0x40 ≤ addr.toNat → busRead addr t = 0) ∧ busRead 0x0B t = 0 ∧ busRead 0x0C t = 0 ∧
      busRead 0x0D t = 0 ∧ t.recValid = false

/-- R117: the steps that consume a clock edge compose to the fixed order of its events. That an edge is a list of steps, one for each
event and one for its end, is the model's choice (log entry 2). -/
def Obligations.StepsOfAnEdgeComposeInFixedOrder : Prop :=
  ∀ (s : State) (c : PortCycle) (rest : List PortCycle), s.inputs = c :: rest →
    ∃ n, 1 ≤ n ∧ n ≤ 5 ∧ Host.Core.run Sys2Proof.core n s = clockCycle c { s with inputs := rest }

/-- R117, its listed consequences. Final byte with a timeout input: DONE. An arm, by either command, with
a byte: the byte is the new frame's, so it starts the frame (any byte in NONE mode, 0x55 in every mode), and another byte raises SYNC
in STRICT mode and is skipped in HUNT mode. The
RX_TIMEOUT command with the final byte: INCOMPLETE, and the byte is dropped. TX_DATA with a take: TX_OVERRUN, and the old byte is
taken. TX_ABORT with `tx_ready`: the byte is discarded. -/
def Obligations.SameCycleConsequences : Prop :=
  (∀ (s : State) (b : Byte), s.rxState = .accum → s.rxCount.toNat + 1 = s.actLen.toNat → s.rxSum + b = 0 →
    ∃ t, clockCycle { PortCycle.idle with rxData := some b, rxTimeout := true } s = .next t ∧ t.rxState = .done ∧ t.rxErr = s.rxErr) ∧
  (∀ (s : State) (w : Word) (b : Byte), (w = 0x00000001 ∧ 7 ≤ s.rxLen.toNat) ∨ (∃ a : Nibble, a.toNat ≤ 8 ∧ w = cmdWord 0 a 0x2) →
    ∃ t, clockCycle { PortCycle.idle with access := some (.write 0x01 w), rxData := some b } s = .next t ∧
      t.actMode = s.syncMode ∧ t.rxDrop = false ∧
      (s.syncMode = .none ∨ b = 0x55 → t.rxState = .accum ∧ t.rxErr = .none ∧ framePrefix t = [b] ∧ t.rxSum = b ∧ t.rxSkip = 0) ∧
      (s.syncMode = .strict → b ≠ 0x55 → t.rxState = .error ∧ t.rxErr = .sync ∧ t.rxCount = 0) ∧
      (s.syncMode = .hunt → b ≠ 0x55 → t.rxState = .hunt ∧ t.rxCount = 0 ∧ t.rxSkip = 1)) ∧
  (∀ (s : State) (b : Byte), s.rxState = .accum → ∃ t,
    clockCycle { PortCycle.idle with access := some (.write 0x01 0x4), rxData := some b } s = .next t ∧
      t.rxState = .error ∧ t.rxErr = .incomplete ∧ t.rxDrop = true ∧ t.rxCount = s.rxCount) ∧
  (∀ (s : State) (v : Word), s.txOpen = true → s.txBusy = true → ∃ t,
    clockCycle { PortCycle.idle with access := some (.write 0x05 v), txReady := true } s = .next t ∧
      t.cmdErr = .txOverrun ∧ t.txOut = s.txOut ++ [s.txHold] ∧ t.txBusy = false) ∧
  (∀ s : State, ∃ t, clockCycle { PortCycle.idle with access := some (.write 0x01 0x7), txReady := true } s = .next t ∧
      t.txOut = s.txOut ∧ t.txBusy = false)

/-- R115: when a line event of a clock cycle sets a pending bit that the host's INT_PEND write of the same cycle clears, the bit
ends at 1: a take for TX_READY, a completed frame for RX_DONE, and for RX_ERR a wrong sum, a wrong first byte or a timeout. -/
def Obligations.SetWinsOverClearInOneCycle : Prop :=
  ∀ (s : State) (v : Word),
    (s.txBusy = true → ∃ t, clockCycle { PortCycle.idle with access := some (.write 0x09 v), txReady := true } s = .next t ∧
      t.intPend.getLsbD 2 = true) ∧
    (∀ b, s.rxState = .accum → s.rxCount.toNat + 1 = s.actLen.toNat → s.rxSum + b = 0 → ∃ t,
      clockCycle { PortCycle.idle with access := some (.write 0x09 v), rxData := some b } s = .next t ∧
        t.intPend.getLsbD 0 = true) ∧
    (∀ b, s.rxState = .accum → s.rxCount.toNat + 1 = s.actLen.toNat → s.rxSum + b ≠ 0 → ∃ t,
      clockCycle { PortCycle.idle with access := some (.write 0x09 v), rxData := some b } s = .next t ∧
        t.intPend.getLsbD 1 = true) ∧
    (∀ b, s.rxState = .hunt → s.actMode = .strict → b ≠ 0x55 → ∃ t,
      clockCycle { PortCycle.idle with access := some (.write 0x09 v), rxData := some b } s = .next t ∧
        t.intPend.getLsbD 1 = true) ∧
    (s.rxState = .hunt ∨ s.rxState = .accum → ∃ t,
      clockCycle { PortCycle.idle with access := some (.write 0x09 v), rxTimeout := true } s = .next t ∧
        t.intPend.getLsbD 1 = true)

/-! ### The machine -/

/-- 00_scope.md R6 and 60_exceptions.md R117: a step runs the operation that the next event is, on the state with that event taken
away. An operation queued at an edge of its own is the next one. How inputs are held is the model's choice (log entry 2). -/
def Obligations.StepRunsTheDecodedOperation : Prop :=
  (∀ (s : State) (c left : PortCycle) (rest : List PortCycle) (e : PortEvent), s.inputs = c :: rest →
    nextEvent c s = some (e, left) → step s = exec (decodeEvent s.rxState s.actMode e) { s with inputs := left :: rest }) ∧
  (∀ (i : Instr) (s : State), i.wellFormed = true → i.selectedBy s.rxState s.actMode = true →
    (i = .txTake → s.txBusy = true) →
    step (queueEvent (encode i) s) = exec i { s with inputs := PortCycle.idle :: s.inputs })

/-- R7 and R107: every step of every state answers a next state; no event blocks, and no error stops the MFC. -/
def Obligations.EveryStepAnswersANextState : Prop :=
  ∀ s : State, ∃ t, step s = .next t

/-- The invariant of R10 to R17, R21, R90 and R97 with the frame buffer's canonical form: every step keeps it. -/
def Obligations.EveryStepKeepsTheInvariant : Prop :=
  ∀ s t : State, StateInv s → step s = .next t → StateInv t

/-- The invariant holds right after reset. -/
def Obligations.ResetStateMeetsTheInvariant : Prop := StateInv State.reset

/-- R16 and U2: frame buffer bytes at or above `rx_count` are never observable. Two states that differ only in them (and in the
index of FB's free content) read the same at every offset, have the same outputs, and step to two such states. -/
def Obligations.UnwrittenFrameBufferIsNeverObservable : Prop :=
  ∀ s t : State, StateInv s → sameVisible s t →
    (∀ addr, busRead addr t = busRead addr s) ∧ irq t = irq s ∧ txValid t = txValid s ∧ txData t = txData s ∧
    ∀ s', step s = .next s' → ∃ t', step t = .next t' ∧ sameVisible s' t'
end

