-- ==== Sys2Proof/Laws/Encoding.lean ====
section
/-! SUPPORT. Concatenation as arithmetic, and the fields of a CMD word: the word made of its fields and the fields of a word
are inverse to each other (30_encoding.md R55). -/

namespace Sys2Proof

/-- `{x, y}` as a number (00_scope.md R5). -/
theorem append_toNat {n m : Nat} (x : BitVec n) (y : BitVec m) : (x ++ y).toNat = x.toNat * 2 ^ m + y.toNat := by
  rw [BitVec.toNat_append, ← Nat.shiftLeft_add_eq_or_of_lt y.isLt, Nat.shiftLeft_eq]

/-- Four bytes packed into a word, as a number: the lowest-order byte is written last (20_memory.md R43, R46). -/
theorem packBytes_toNat (b3 b2 b1 b0 : Byte) :
    (b3 ++ b2 ++ b1 ++ b0 : Word).toNat = ((b3.toNat * 256 + b2.toNat) * 256 + b1.toNat) * 256 + b0.toNat := by
  refine (append_toNat (b3 ++ b2 ++ b1) b0).trans ?_
  rw [append_toNat (b3 ++ b2) b1, append_toNat b3 b2]; norm_num

theorem cmdWord_toNat (z : BitVec 24) (a op : Nibble) : (cmdWord z a op).toNat = (z.toNat * 16 + a.toNat) * 16 + op.toNat :=
  (append_toNat (z ++ a) op).trans (by rw [append_toNat z a]; norm_num)

theorem cmdZ_toNat (v : Word) : (cmdZ v).toNat = v.toNat / 256 := by
  have := v.isLt
  simp [cmdZ, Nat.shiftRight_eq_div_pow]; omega

theorem cmdA_toNat (v : Word) : (cmdA v).toNat = v.toNat / 16 % 16 := by
  simp [cmdA, Nat.shiftRight_eq_div_pow]

theorem cmdOp_toNat (v : Word) : (cmdOp v).toNat = v.toNat % 16 := by
  simp [cmdOp]

@[simp] theorem cmdZ_cmdWord (z : BitVec 24) (a op : Nibble) : cmdZ (cmdWord z a op) = z := by
  have := a.isLt; have := op.isLt
  apply BitVec.eq_of_toNat_eq
  rw [cmdZ_toNat, cmdWord_toNat]; omega

@[simp] theorem cmdA_cmdWord (z : BitVec 24) (a op : Nibble) : cmdA (cmdWord z a op) = a := by
  have := a.isLt; have := op.isLt
  apply BitVec.eq_of_toNat_eq
  rw [cmdA_toNat, cmdWord_toNat]; omega

@[simp] theorem cmdOp_cmdWord (z : BitVec 24) (a op : Nibble) : cmdOp (cmdWord z a op) = op := by
  have := op.isLt
  apply BitVec.eq_of_toNat_eq
  rw [cmdOp_toNat, cmdWord_toNat]; omega

@[simp] theorem cmdWord_fields (v : Word) : cmdWord (cmdZ v) (cmdA v) (cmdOp v) = v := by
  apply BitVec.eq_of_toNat_eq
  rw [cmdWord_toNat, cmdZ_toNat, cmdA_toNat, cmdOp_toNat]; omega

/-- What a CMD word decodes to (R55 to R59). -/
theorem decodeCmd_cmdWord (z : BitVec 24) (a op : Nibble) : decodeCmd (cmdWord z a op) =
    if opReserved op then decodeReservedCmd z a op
    else if malformedCmd z a op then .cmdNonzeroZ z a op else decodeLegalCmd a op := by
  simp [decodeCmd]

/-- The address of an FB window word is 64 plus its index (20_memory.md R42). -/
theorem fbAddr_toNat (j : BitVec 6) : ((1 : BitVec 1) ++ j).toNat = 64 + j.toNat :=
  append_toNat 1 j

@[simp] theorem fbAddr_index (j : BitVec 6) : (((1 : BitVec 1) ++ j : WordAddr)).extractLsb' 0 6 = j := by
  apply BitVec.eq_of_toNat_eq
  have := j.isLt; have h := fbAddr_toNat j
  simp only [BitVec.extractLsb'_toNat, Nat.shiftRight_zero] at *
  omega

end Sys2Proof
end

