-- ==== Sys2Proof/Laws/State.lean ====
section
/-! SUPPORT. What each named operation leaves in each field of the state: one lemma per field and operation, true by
unfolding, so that no later proof unfolds an operation to read a field. -/

namespace Sys2Proof.Machine

/-! ### `setPend` -/

@[simp] theorem setPend_syncMode (bits : Nibble) (s : State) : (setPend bits s).syncMode = s.syncMode := rfl
@[simp] theorem setPend_rxLen (bits : Nibble) (s : State) : (setPend bits s).rxLen = s.rxLen := rfl
@[simp] theorem setPend_rxState (bits : Nibble) (s : State) : (setPend bits s).rxState = s.rxState := rfl
@[simp] theorem setPend_rxErr (bits : Nibble) (s : State) : (setPend bits s).rxErr = s.rxErr := rfl
@[simp] theorem setPend_actLen (bits : Nibble) (s : State) : (setPend bits s).actLen = s.actLen := rfl
@[simp] theorem setPend_actMode (bits : Nibble) (s : State) : (setPend bits s).actMode = s.actMode := rfl
@[simp] theorem setPend_rxCount (bits : Nibble) (s : State) : (setPend bits s).rxCount = s.rxCount := rfl
@[simp] theorem setPend_rxSum (bits : Nibble) (s : State) : (setPend bits s).rxSum = s.rxSum := rfl
@[simp] theorem setPend_rxSkip (bits : Nibble) (s : State) : (setPend bits s).rxSkip = s.rxSkip := rfl
@[simp] theorem setPend_rxDrop (bits : Nibble) (s : State) : (setPend bits s).rxDrop = s.rxDrop := rfl
@[simp] theorem setPend_fb (bits : Nibble) (s : State) : (setPend bits s).fb = s.fb := rfl
@[simp] theorem setPend_txOpen (bits : Nibble) (s : State) : (setPend bits s).txOpen = s.txOpen := rfl
@[simp] theorem setPend_txBusy (bits : Nibble) (s : State) : (setPend bits s).txBusy = s.txBusy := rfl
@[simp] theorem setPend_txHold (bits : Nibble) (s : State) : (setPend bits s).txHold = s.txHold := rfl
@[simp] theorem setPend_txSum (bits : Nibble) (s : State) : (setPend bits s).txSum = s.txSum := rfl
@[simp] theorem setPend_txCnt (bits : Nibble) (s : State) : (setPend bits s).txCnt = s.txCnt := rfl
@[simp] theorem setPend_ckSum (bits : Nibble) (s : State) : (setPend bits s).ckSum = s.ckSum := rfl
@[simp] theorem setPend_ckCnt (bits : Nibble) (s : State) : (setPend bits s).ckCnt = s.ckCnt := rfl
@[simp] theorem setPend_intPend (bits : Nibble) (s : State) : (setPend bits s).intPend = s.intPend ||| bits := rfl
@[simp] theorem setPend_intEn (bits : Nibble) (s : State) : (setPend bits s).intEn = s.intEn := rfl
@[simp] theorem setPend_cmdErr (bits : Nibble) (s : State) : (setPend bits s).cmdErr = s.cmdErr := rfl
@[simp] theorem setPend_recValid (bits : Nibble) (s : State) : (setPend bits s).recValid = s.recValid := rfl
@[simp] theorem setPend_recIdx (bits : Nibble) (s : State) : (setPend bits s).recIdx = s.recIdx := rfl
@[simp] theorem setPend_recSec (bits : Nibble) (s : State) : (setPend bits s).recSec = s.recSec := rfl
@[simp] theorem setPend_recMin (bits : Nibble) (s : State) : (setPend bits s).recMin = s.recMin := rfl
@[simp] theorem setPend_recHour (bits : Nibble) (s : State) : (setPend bits s).recHour = s.recHour := rfl
@[simp] theorem setPend_recDay (bits : Nibble) (s : State) : (setPend bits s).recDay = s.recDay := rfl
@[simp] theorem setPend_recMon (bits : Nibble) (s : State) : (setPend bits s).recMon = s.recMon := rfl
@[simp] theorem setPend_recDow (bits : Nibble) (s : State) : (setPend bits s).recDow = s.recDow := rfl
@[simp] theorem setPend_recYear (bits : Nibble) (s : State) : (setPend bits s).recYear = s.recYear := rfl
@[simp] theorem setPend_recVal (bits : Nibble) (s : State) : (setPend bits s).recVal = s.recVal := rfl
@[simp] theorem setPend_fbEpoch (bits : Nibble) (s : State) : (setPend bits s).fbEpoch = s.fbEpoch := rfl
@[simp] theorem setPend_inputs (bits : Nibble) (s : State) : (setPend bits s).inputs = s.inputs := rfl
@[simp] theorem setPend_txOut (bits : Nibble) (s : State) : (setPend bits s).txOut = s.txOut := rfl
@[simp] theorem setPend_rdOut (bits : Nibble) (s : State) : (setPend bits s).rdOut = s.rdOut := rfl

/-! ### `clearPend` -/

@[simp] theorem clearPend_syncMode (c : Nibble) (s : State) : (clearPend c s).syncMode = s.syncMode := rfl
@[simp] theorem clearPend_rxLen (c : Nibble) (s : State) : (clearPend c s).rxLen = s.rxLen := rfl
@[simp] theorem clearPend_rxState (c : Nibble) (s : State) : (clearPend c s).rxState = s.rxState := rfl
@[simp] theorem clearPend_rxErr (c : Nibble) (s : State) : (clearPend c s).rxErr = s.rxErr := rfl
@[simp] theorem clearPend_actLen (c : Nibble) (s : State) : (clearPend c s).actLen = s.actLen := rfl
@[simp] theorem clearPend_actMode (c : Nibble) (s : State) : (clearPend c s).actMode = s.actMode := rfl
@[simp] theorem clearPend_rxCount (c : Nibble) (s : State) : (clearPend c s).rxCount = s.rxCount := rfl
@[simp] theorem clearPend_rxSum (c : Nibble) (s : State) : (clearPend c s).rxSum = s.rxSum := rfl
@[simp] theorem clearPend_rxSkip (c : Nibble) (s : State) : (clearPend c s).rxSkip = s.rxSkip := rfl
@[simp] theorem clearPend_rxDrop (c : Nibble) (s : State) : (clearPend c s).rxDrop = s.rxDrop := rfl
@[simp] theorem clearPend_fb (c : Nibble) (s : State) : (clearPend c s).fb = s.fb := rfl
@[simp] theorem clearPend_txOpen (c : Nibble) (s : State) : (clearPend c s).txOpen = s.txOpen := rfl
@[simp] theorem clearPend_txBusy (c : Nibble) (s : State) : (clearPend c s).txBusy = s.txBusy := rfl
@[simp] theorem clearPend_txHold (c : Nibble) (s : State) : (clearPend c s).txHold = s.txHold := rfl
@[simp] theorem clearPend_txSum (c : Nibble) (s : State) : (clearPend c s).txSum = s.txSum := rfl
@[simp] theorem clearPend_txCnt (c : Nibble) (s : State) : (clearPend c s).txCnt = s.txCnt := rfl
@[simp] theorem clearPend_ckSum (c : Nibble) (s : State) : (clearPend c s).ckSum = s.ckSum := rfl
@[simp] theorem clearPend_ckCnt (c : Nibble) (s : State) : (clearPend c s).ckCnt = s.ckCnt := rfl
@[simp] theorem clearPend_intPend (c : Nibble) (s : State) : (clearPend c s).intPend = s.intPend &&& ~~~c := rfl
@[simp] theorem clearPend_intEn (c : Nibble) (s : State) : (clearPend c s).intEn = s.intEn := rfl
@[simp] theorem clearPend_cmdErr (c : Nibble) (s : State) : (clearPend c s).cmdErr = s.cmdErr := rfl
@[simp] theorem clearPend_recValid (c : Nibble) (s : State) : (clearPend c s).recValid = s.recValid := rfl
@[simp] theorem clearPend_recIdx (c : Nibble) (s : State) : (clearPend c s).recIdx = s.recIdx := rfl
@[simp] theorem clearPend_recSec (c : Nibble) (s : State) : (clearPend c s).recSec = s.recSec := rfl
@[simp] theorem clearPend_recMin (c : Nibble) (s : State) : (clearPend c s).recMin = s.recMin := rfl
@[simp] theorem clearPend_recHour (c : Nibble) (s : State) : (clearPend c s).recHour = s.recHour := rfl
@[simp] theorem clearPend_recDay (c : Nibble) (s : State) : (clearPend c s).recDay = s.recDay := rfl
@[simp] theorem clearPend_recMon (c : Nibble) (s : State) : (clearPend c s).recMon = s.recMon := rfl
@[simp] theorem clearPend_recDow (c : Nibble) (s : State) : (clearPend c s).recDow = s.recDow := rfl
@[simp] theorem clearPend_recYear (c : Nibble) (s : State) : (clearPend c s).recYear = s.recYear := rfl
@[simp] theorem clearPend_recVal (c : Nibble) (s : State) : (clearPend c s).recVal = s.recVal := rfl
@[simp] theorem clearPend_fbEpoch (c : Nibble) (s : State) : (clearPend c s).fbEpoch = s.fbEpoch := rfl
@[simp] theorem clearPend_inputs (c : Nibble) (s : State) : (clearPend c s).inputs = s.inputs := rfl
@[simp] theorem clearPend_txOut (c : Nibble) (s : State) : (clearPend c s).txOut = s.txOut := rfl
@[simp] theorem clearPend_rdOut (c : Nibble) (s : State) : (clearPend c s).rdOut = s.rdOut := rfl

/-! ### `fbStore` -/

@[simp] theorem fbStore_syncMode (i : Nat) (b : Byte) (s : State) : (fbStore i b s).syncMode = s.syncMode := rfl
@[simp] theorem fbStore_rxLen (i : Nat) (b : Byte) (s : State) : (fbStore i b s).rxLen = s.rxLen := rfl
@[simp] theorem fbStore_rxState (i : Nat) (b : Byte) (s : State) : (fbStore i b s).rxState = s.rxState := rfl
@[simp] theorem fbStore_rxErr (i : Nat) (b : Byte) (s : State) : (fbStore i b s).rxErr = s.rxErr := rfl
@[simp] theorem fbStore_actLen (i : Nat) (b : Byte) (s : State) : (fbStore i b s).actLen = s.actLen := rfl
@[simp] theorem fbStore_actMode (i : Nat) (b : Byte) (s : State) : (fbStore i b s).actMode = s.actMode := rfl
@[simp] theorem fbStore_rxCount (i : Nat) (b : Byte) (s : State) : (fbStore i b s).rxCount = s.rxCount := rfl
@[simp] theorem fbStore_rxSum (i : Nat) (b : Byte) (s : State) : (fbStore i b s).rxSum = s.rxSum := rfl
@[simp] theorem fbStore_rxSkip (i : Nat) (b : Byte) (s : State) : (fbStore i b s).rxSkip = s.rxSkip := rfl
@[simp] theorem fbStore_rxDrop (i : Nat) (b : Byte) (s : State) : (fbStore i b s).rxDrop = s.rxDrop := rfl
@[simp] theorem fbStore_fb (i : Nat) (b : Byte) (s : State) : (fbStore i b s).fb = fbInsert i b s.fb := rfl
@[simp] theorem fbStore_txOpen (i : Nat) (b : Byte) (s : State) : (fbStore i b s).txOpen = s.txOpen := rfl
@[simp] theorem fbStore_txBusy (i : Nat) (b : Byte) (s : State) : (fbStore i b s).txBusy = s.txBusy := rfl
@[simp] theorem fbStore_txHold (i : Nat) (b : Byte) (s : State) : (fbStore i b s).txHold = s.txHold := rfl
@[simp] theorem fbStore_txSum (i : Nat) (b : Byte) (s : State) : (fbStore i b s).txSum = s.txSum := rfl
@[simp] theorem fbStore_txCnt (i : Nat) (b : Byte) (s : State) : (fbStore i b s).txCnt = s.txCnt := rfl
@[simp] theorem fbStore_ckSum (i : Nat) (b : Byte) (s : State) : (fbStore i b s).ckSum = s.ckSum := rfl
@[simp] theorem fbStore_ckCnt (i : Nat) (b : Byte) (s : State) : (fbStore i b s).ckCnt = s.ckCnt := rfl
@[simp] theorem fbStore_intPend (i : Nat) (b : Byte) (s : State) : (fbStore i b s).intPend = s.intPend := rfl
@[simp] theorem fbStore_intEn (i : Nat) (b : Byte) (s : State) : (fbStore i b s).intEn = s.intEn := rfl
@[simp] theorem fbStore_cmdErr (i : Nat) (b : Byte) (s : State) : (fbStore i b s).cmdErr = s.cmdErr := rfl
@[simp] theorem fbStore_recValid (i : Nat) (b : Byte) (s : State) : (fbStore i b s).recValid = s.recValid := rfl
@[simp] theorem fbStore_recIdx (i : Nat) (b : Byte) (s : State) : (fbStore i b s).recIdx = s.recIdx := rfl
@[simp] theorem fbStore_recSec (i : Nat) (b : Byte) (s : State) : (fbStore i b s).recSec = s.recSec := rfl
@[simp] theorem fbStore_recMin (i : Nat) (b : Byte) (s : State) : (fbStore i b s).recMin = s.recMin := rfl
@[simp] theorem fbStore_recHour (i : Nat) (b : Byte) (s : State) : (fbStore i b s).recHour = s.recHour := rfl
@[simp] theorem fbStore_recDay (i : Nat) (b : Byte) (s : State) : (fbStore i b s).recDay = s.recDay := rfl
@[simp] theorem fbStore_recMon (i : Nat) (b : Byte) (s : State) : (fbStore i b s).recMon = s.recMon := rfl
@[simp] theorem fbStore_recDow (i : Nat) (b : Byte) (s : State) : (fbStore i b s).recDow = s.recDow := rfl
@[simp] theorem fbStore_recYear (i : Nat) (b : Byte) (s : State) : (fbStore i b s).recYear = s.recYear := rfl
@[simp] theorem fbStore_recVal (i : Nat) (b : Byte) (s : State) : (fbStore i b s).recVal = s.recVal := rfl
@[simp] theorem fbStore_fbEpoch (i : Nat) (b : Byte) (s : State) : (fbStore i b s).fbEpoch = s.fbEpoch := rfl
@[simp] theorem fbStore_inputs (i : Nat) (b : Byte) (s : State) : (fbStore i b s).inputs = s.inputs := rfl
@[simp] theorem fbStore_txOut (i : Nat) (b : Byte) (s : State) : (fbStore i b s).txOut = s.txOut := rfl
@[simp] theorem fbStore_rdOut (i : Nat) (b : Byte) (s : State) : (fbStore i b s).rdOut = s.rdOut := rfl

/-! ### `raiseCmdError` -/

@[simp] theorem raiseCmdError_syncMode (c : CmdErr) (s : State) : (raiseCmdError c s).syncMode = s.syncMode := rfl
@[simp] theorem raiseCmdError_rxLen (c : CmdErr) (s : State) : (raiseCmdError c s).rxLen = s.rxLen := rfl
@[simp] theorem raiseCmdError_rxState (c : CmdErr) (s : State) : (raiseCmdError c s).rxState = s.rxState := rfl
@[simp] theorem raiseCmdError_rxErr (c : CmdErr) (s : State) : (raiseCmdError c s).rxErr = s.rxErr := rfl
@[simp] theorem raiseCmdError_actLen (c : CmdErr) (s : State) : (raiseCmdError c s).actLen = s.actLen := rfl
@[simp] theorem raiseCmdError_actMode (c : CmdErr) (s : State) : (raiseCmdError c s).actMode = s.actMode := rfl
@[simp] theorem raiseCmdError_rxCount (c : CmdErr) (s : State) : (raiseCmdError c s).rxCount = s.rxCount := rfl
@[simp] theorem raiseCmdError_rxSum (c : CmdErr) (s : State) : (raiseCmdError c s).rxSum = s.rxSum := rfl
@[simp] theorem raiseCmdError_rxSkip (c : CmdErr) (s : State) : (raiseCmdError c s).rxSkip = s.rxSkip := rfl
@[simp] theorem raiseCmdError_rxDrop (c : CmdErr) (s : State) : (raiseCmdError c s).rxDrop = s.rxDrop := rfl
@[simp] theorem raiseCmdError_fb (c : CmdErr) (s : State) : (raiseCmdError c s).fb = s.fb := rfl
@[simp] theorem raiseCmdError_txOpen (c : CmdErr) (s : State) : (raiseCmdError c s).txOpen = s.txOpen := rfl
@[simp] theorem raiseCmdError_txBusy (c : CmdErr) (s : State) : (raiseCmdError c s).txBusy = s.txBusy := rfl
@[simp] theorem raiseCmdError_txHold (c : CmdErr) (s : State) : (raiseCmdError c s).txHold = s.txHold := rfl
@[simp] theorem raiseCmdError_txSum (c : CmdErr) (s : State) : (raiseCmdError c s).txSum = s.txSum := rfl
@[simp] theorem raiseCmdError_txCnt (c : CmdErr) (s : State) : (raiseCmdError c s).txCnt = s.txCnt := rfl
@[simp] theorem raiseCmdError_ckSum (c : CmdErr) (s : State) : (raiseCmdError c s).ckSum = s.ckSum := rfl
@[simp] theorem raiseCmdError_ckCnt (c : CmdErr) (s : State) : (raiseCmdError c s).ckCnt = s.ckCnt := rfl
@[simp] theorem raiseCmdError_intPend (c : CmdErr) (s : State) : (raiseCmdError c s).intPend = s.intPend ||| pendCmdErr := rfl
@[simp] theorem raiseCmdError_intEn (c : CmdErr) (s : State) : (raiseCmdError c s).intEn = s.intEn := rfl
@[simp] theorem raiseCmdError_cmdErr (c : CmdErr) (s : State) : (raiseCmdError c s).cmdErr = c := rfl
@[simp] theorem raiseCmdError_recValid (c : CmdErr) (s : State) : (raiseCmdError c s).recValid = s.recValid := rfl
@[simp] theorem raiseCmdError_recIdx (c : CmdErr) (s : State) : (raiseCmdError c s).recIdx = s.recIdx := rfl
@[simp] theorem raiseCmdError_recSec (c : CmdErr) (s : State) : (raiseCmdError c s).recSec = s.recSec := rfl
@[simp] theorem raiseCmdError_recMin (c : CmdErr) (s : State) : (raiseCmdError c s).recMin = s.recMin := rfl
@[simp] theorem raiseCmdError_recHour (c : CmdErr) (s : State) : (raiseCmdError c s).recHour = s.recHour := rfl
@[simp] theorem raiseCmdError_recDay (c : CmdErr) (s : State) : (raiseCmdError c s).recDay = s.recDay := rfl
@[simp] theorem raiseCmdError_recMon (c : CmdErr) (s : State) : (raiseCmdError c s).recMon = s.recMon := rfl
@[simp] theorem raiseCmdError_recDow (c : CmdErr) (s : State) : (raiseCmdError c s).recDow = s.recDow := rfl
@[simp] theorem raiseCmdError_recYear (c : CmdErr) (s : State) : (raiseCmdError c s).recYear = s.recYear := rfl
@[simp] theorem raiseCmdError_recVal (c : CmdErr) (s : State) : (raiseCmdError c s).recVal = s.recVal := rfl
@[simp] theorem raiseCmdError_fbEpoch (c : CmdErr) (s : State) : (raiseCmdError c s).fbEpoch = s.fbEpoch := rfl
@[simp] theorem raiseCmdError_inputs (c : CmdErr) (s : State) : (raiseCmdError c s).inputs = s.inputs := rfl
@[simp] theorem raiseCmdError_txOut (c : CmdErr) (s : State) : (raiseCmdError c s).txOut = s.txOut := rfl
@[simp] theorem raiseCmdError_rdOut (c : CmdErr) (s : State) : (raiseCmdError c s).rdOut = s.rdOut := rfl

/-! ### `raiseRxError` -/

@[simp] theorem raiseRxError_syncMode (e : RxErr) (s : State) : (raiseRxError e s).syncMode = s.syncMode := rfl
@[simp] theorem raiseRxError_rxLen (e : RxErr) (s : State) : (raiseRxError e s).rxLen = s.rxLen := rfl
@[simp] theorem raiseRxError_rxState (e : RxErr) (s : State) : (raiseRxError e s).rxState = .error := rfl
@[simp] theorem raiseRxError_rxErr (e : RxErr) (s : State) : (raiseRxError e s).rxErr = e := rfl
@[simp] theorem raiseRxError_actLen (e : RxErr) (s : State) : (raiseRxError e s).actLen = s.actLen := rfl
@[simp] theorem raiseRxError_actMode (e : RxErr) (s : State) : (raiseRxError e s).actMode = s.actMode := rfl
@[simp] theorem raiseRxError_rxCount (e : RxErr) (s : State) : (raiseRxError e s).rxCount = s.rxCount := rfl
@[simp] theorem raiseRxError_rxSum (e : RxErr) (s : State) : (raiseRxError e s).rxSum = s.rxSum := rfl
@[simp] theorem raiseRxError_rxSkip (e : RxErr) (s : State) : (raiseRxError e s).rxSkip = s.rxSkip := rfl
@[simp] theorem raiseRxError_rxDrop (e : RxErr) (s : State) : (raiseRxError e s).rxDrop = s.rxDrop := rfl
@[simp] theorem raiseRxError_fb (e : RxErr) (s : State) : (raiseRxError e s).fb = s.fb := rfl
@[simp] theorem raiseRxError_txOpen (e : RxErr) (s : State) : (raiseRxError e s).txOpen = s.txOpen := rfl
@[simp] theorem raiseRxError_txBusy (e : RxErr) (s : State) : (raiseRxError e s).txBusy = s.txBusy := rfl
@[simp] theorem raiseRxError_txHold (e : RxErr) (s : State) : (raiseRxError e s).txHold = s.txHold := rfl
@[simp] theorem raiseRxError_txSum (e : RxErr) (s : State) : (raiseRxError e s).txSum = s.txSum := rfl
@[simp] theorem raiseRxError_txCnt (e : RxErr) (s : State) : (raiseRxError e s).txCnt = s.txCnt := rfl
@[simp] theorem raiseRxError_ckSum (e : RxErr) (s : State) : (raiseRxError e s).ckSum = s.ckSum := rfl
@[simp] theorem raiseRxError_ckCnt (e : RxErr) (s : State) : (raiseRxError e s).ckCnt = s.ckCnt := rfl
@[simp] theorem raiseRxError_intPend (e : RxErr) (s : State) : (raiseRxError e s).intPend = s.intPend ||| pendRxErr := rfl
@[simp] theorem raiseRxError_intEn (e : RxErr) (s : State) : (raiseRxError e s).intEn = s.intEn := rfl
@[simp] theorem raiseRxError_cmdErr (e : RxErr) (s : State) : (raiseRxError e s).cmdErr = s.cmdErr := rfl
@[simp] theorem raiseRxError_recValid (e : RxErr) (s : State) : (raiseRxError e s).recValid = s.recValid := rfl
@[simp] theorem raiseRxError_recIdx (e : RxErr) (s : State) : (raiseRxError e s).recIdx = s.recIdx := rfl
@[simp] theorem raiseRxError_recSec (e : RxErr) (s : State) : (raiseRxError e s).recSec = s.recSec := rfl
@[simp] theorem raiseRxError_recMin (e : RxErr) (s : State) : (raiseRxError e s).recMin = s.recMin := rfl
@[simp] theorem raiseRxError_recHour (e : RxErr) (s : State) : (raiseRxError e s).recHour = s.recHour := rfl
@[simp] theorem raiseRxError_recDay (e : RxErr) (s : State) : (raiseRxError e s).recDay = s.recDay := rfl
@[simp] theorem raiseRxError_recMon (e : RxErr) (s : State) : (raiseRxError e s).recMon = s.recMon := rfl
@[simp] theorem raiseRxError_recDow (e : RxErr) (s : State) : (raiseRxError e s).recDow = s.recDow := rfl
@[simp] theorem raiseRxError_recYear (e : RxErr) (s : State) : (raiseRxError e s).recYear = s.recYear := rfl
@[simp] theorem raiseRxError_recVal (e : RxErr) (s : State) : (raiseRxError e s).recVal = s.recVal := rfl
@[simp] theorem raiseRxError_fbEpoch (e : RxErr) (s : State) : (raiseRxError e s).fbEpoch = s.fbEpoch := rfl
@[simp] theorem raiseRxError_inputs (e : RxErr) (s : State) : (raiseRxError e s).inputs = s.inputs := rfl
@[simp] theorem raiseRxError_txOut (e : RxErr) (s : State) : (raiseRxError e s).txOut = s.txOut := rfl
@[simp] theorem raiseRxError_rdOut (e : RxErr) (s : State) : (raiseRxError e s).rdOut = s.rdOut := rfl

/-! ### `commandOk` -/

@[simp] theorem commandOk_syncMode (s : State) : (commandOk s).syncMode = s.syncMode := rfl
@[simp] theorem commandOk_rxLen (s : State) : (commandOk s).rxLen = s.rxLen := rfl
@[simp] theorem commandOk_rxState (s : State) : (commandOk s).rxState = s.rxState := rfl
@[simp] theorem commandOk_rxErr (s : State) : (commandOk s).rxErr = s.rxErr := rfl
@[simp] theorem commandOk_actLen (s : State) : (commandOk s).actLen = s.actLen := rfl
@[simp] theorem commandOk_actMode (s : State) : (commandOk s).actMode = s.actMode := rfl
@[simp] theorem commandOk_rxCount (s : State) : (commandOk s).rxCount = s.rxCount := rfl
@[simp] theorem commandOk_rxSum (s : State) : (commandOk s).rxSum = s.rxSum := rfl
@[simp] theorem commandOk_rxSkip (s : State) : (commandOk s).rxSkip = s.rxSkip := rfl
@[simp] theorem commandOk_rxDrop (s : State) : (commandOk s).rxDrop = s.rxDrop := rfl
@[simp] theorem commandOk_fb (s : State) : (commandOk s).fb = s.fb := rfl
@[simp] theorem commandOk_txOpen (s : State) : (commandOk s).txOpen = s.txOpen := rfl
@[simp] theorem commandOk_txBusy (s : State) : (commandOk s).txBusy = s.txBusy := rfl
@[simp] theorem commandOk_txHold (s : State) : (commandOk s).txHold = s.txHold := rfl
@[simp] theorem commandOk_txSum (s : State) : (commandOk s).txSum = s.txSum := rfl
@[simp] theorem commandOk_txCnt (s : State) : (commandOk s).txCnt = s.txCnt := rfl
@[simp] theorem commandOk_ckSum (s : State) : (commandOk s).ckSum = s.ckSum := rfl
@[simp] theorem commandOk_ckCnt (s : State) : (commandOk s).ckCnt = s.ckCnt := rfl
@[simp] theorem commandOk_intPend (s : State) : (commandOk s).intPend = s.intPend := rfl
@[simp] theorem commandOk_intEn (s : State) : (commandOk s).intEn = s.intEn := rfl
@[simp] theorem commandOk_cmdErr (s : State) : (commandOk s).cmdErr = .ok := rfl
@[simp] theorem commandOk_recValid (s : State) : (commandOk s).recValid = s.recValid := rfl
@[simp] theorem commandOk_recIdx (s : State) : (commandOk s).recIdx = s.recIdx := rfl
@[simp] theorem commandOk_recSec (s : State) : (commandOk s).recSec = s.recSec := rfl
@[simp] theorem commandOk_recMin (s : State) : (commandOk s).recMin = s.recMin := rfl
@[simp] theorem commandOk_recHour (s : State) : (commandOk s).recHour = s.recHour := rfl
@[simp] theorem commandOk_recDay (s : State) : (commandOk s).recDay = s.recDay := rfl
@[simp] theorem commandOk_recMon (s : State) : (commandOk s).recMon = s.recMon := rfl
@[simp] theorem commandOk_recDow (s : State) : (commandOk s).recDow = s.recDow := rfl
@[simp] theorem commandOk_recYear (s : State) : (commandOk s).recYear = s.recYear := rfl
@[simp] theorem commandOk_recVal (s : State) : (commandOk s).recVal = s.recVal := rfl
@[simp] theorem commandOk_fbEpoch (s : State) : (commandOk s).fbEpoch = s.fbEpoch := rfl
@[simp] theorem commandOk_inputs (s : State) : (commandOk s).inputs = s.inputs := rfl
@[simp] theorem commandOk_txOut (s : State) : (commandOk s).txOut = s.txOut := rfl
@[simp] theorem commandOk_rdOut (s : State) : (commandOk s).rdOut = s.rdOut := rfl

/-! ### `clearRecord` -/

@[simp] theorem clearRecord_syncMode (s : State) : (clearRecord s).syncMode = s.syncMode := rfl
@[simp] theorem clearRecord_rxLen (s : State) : (clearRecord s).rxLen = s.rxLen := rfl
@[simp] theorem clearRecord_rxState (s : State) : (clearRecord s).rxState = s.rxState := rfl
@[simp] theorem clearRecord_rxErr (s : State) : (clearRecord s).rxErr = s.rxErr := rfl
@[simp] theorem clearRecord_actLen (s : State) : (clearRecord s).actLen = s.actLen := rfl
@[simp] theorem clearRecord_actMode (s : State) : (clearRecord s).actMode = s.actMode := rfl
@[simp] theorem clearRecord_rxCount (s : State) : (clearRecord s).rxCount = s.rxCount := rfl
@[simp] theorem clearRecord_rxSum (s : State) : (clearRecord s).rxSum = s.rxSum := rfl
@[simp] theorem clearRecord_rxSkip (s : State) : (clearRecord s).rxSkip = s.rxSkip := rfl
@[simp] theorem clearRecord_rxDrop (s : State) : (clearRecord s).rxDrop = s.rxDrop := rfl
@[simp] theorem clearRecord_fb (s : State) : (clearRecord s).fb = s.fb := rfl
@[simp] theorem clearRecord_txOpen (s : State) : (clearRecord s).txOpen = s.txOpen := rfl
@[simp] theorem clearRecord_txBusy (s : State) : (clearRecord s).txBusy = s.txBusy := rfl
@[simp] theorem clearRecord_txHold (s : State) : (clearRecord s).txHold = s.txHold := rfl
@[simp] theorem clearRecord_txSum (s : State) : (clearRecord s).txSum = s.txSum := rfl
@[simp] theorem clearRecord_txCnt (s : State) : (clearRecord s).txCnt = s.txCnt := rfl
@[simp] theorem clearRecord_ckSum (s : State) : (clearRecord s).ckSum = s.ckSum := rfl
@[simp] theorem clearRecord_ckCnt (s : State) : (clearRecord s).ckCnt = s.ckCnt := rfl
@[simp] theorem clearRecord_intPend (s : State) : (clearRecord s).intPend = s.intPend := rfl
@[simp] theorem clearRecord_intEn (s : State) : (clearRecord s).intEn = s.intEn := rfl
@[simp] theorem clearRecord_cmdErr (s : State) : (clearRecord s).cmdErr = s.cmdErr := rfl
@[simp] theorem clearRecord_recValid (s : State) : (clearRecord s).recValid = false := rfl
@[simp] theorem clearRecord_recIdx (s : State) : (clearRecord s).recIdx = 0 := rfl
@[simp] theorem clearRecord_recSec (s : State) : (clearRecord s).recSec = 0 := rfl
@[simp] theorem clearRecord_recMin (s : State) : (clearRecord s).recMin = 0 := rfl
@[simp] theorem clearRecord_recHour (s : State) : (clearRecord s).recHour = 0 := rfl
@[simp] theorem clearRecord_recDay (s : State) : (clearRecord s).recDay = 0 := rfl
@[simp] theorem clearRecord_recMon (s : State) : (clearRecord s).recMon = 0 := rfl
@[simp] theorem clearRecord_recDow (s : State) : (clearRecord s).recDow = 0 := rfl
@[simp] theorem clearRecord_recYear (s : State) : (clearRecord s).recYear = 0 := rfl
@[simp] theorem clearRecord_recVal (s : State) : (clearRecord s).recVal = 0 := rfl
@[simp] theorem clearRecord_fbEpoch (s : State) : (clearRecord s).fbEpoch = s.fbEpoch := rfl
@[simp] theorem clearRecord_inputs (s : State) : (clearRecord s).inputs = s.inputs := rfl
@[simp] theorem clearRecord_txOut (s : State) : (clearRecord s).txOut = s.txOut := rfl
@[simp] theorem clearRecord_rdOut (s : State) : (clearRecord s).rdOut = s.rdOut := rfl

/-! ### `restartReceiver` -/

@[simp] theorem restartReceiver_syncMode (st : RxState) (s : State) : (restartReceiver st s).syncMode = s.syncMode := rfl
@[simp] theorem restartReceiver_rxLen (st : RxState) (s : State) : (restartReceiver st s).rxLen = s.rxLen := rfl
@[simp] theorem restartReceiver_rxState (st : RxState) (s : State) : (restartReceiver st s).rxState = st := rfl
@[simp] theorem restartReceiver_rxErr (st : RxState) (s : State) : (restartReceiver st s).rxErr = .none := rfl
@[simp] theorem restartReceiver_actLen (st : RxState) (s : State) : (restartReceiver st s).actLen = s.actLen := rfl
@[simp] theorem restartReceiver_actMode (st : RxState) (s : State) : (restartReceiver st s).actMode = s.actMode := rfl
@[simp] theorem restartReceiver_rxCount (st : RxState) (s : State) : (restartReceiver st s).rxCount = 0 := rfl
@[simp] theorem restartReceiver_rxSum (st : RxState) (s : State) : (restartReceiver st s).rxSum = 0 := rfl
@[simp] theorem restartReceiver_rxSkip (st : RxState) (s : State) : (restartReceiver st s).rxSkip = 0 := rfl
@[simp] theorem restartReceiver_rxDrop (st : RxState) (s : State) : (restartReceiver st s).rxDrop = false := rfl
@[simp] theorem restartReceiver_fb (st : RxState) (s : State) : (restartReceiver st s).fb = s.fb := rfl
@[simp] theorem restartReceiver_txOpen (st : RxState) (s : State) : (restartReceiver st s).txOpen = s.txOpen := rfl
@[simp] theorem restartReceiver_txBusy (st : RxState) (s : State) : (restartReceiver st s).txBusy = s.txBusy := rfl
@[simp] theorem restartReceiver_txHold (st : RxState) (s : State) : (restartReceiver st s).txHold = s.txHold := rfl
@[simp] theorem restartReceiver_txSum (st : RxState) (s : State) : (restartReceiver st s).txSum = s.txSum := rfl
@[simp] theorem restartReceiver_txCnt (st : RxState) (s : State) : (restartReceiver st s).txCnt = s.txCnt := rfl
@[simp] theorem restartReceiver_ckSum (st : RxState) (s : State) : (restartReceiver st s).ckSum = s.ckSum := rfl
@[simp] theorem restartReceiver_ckCnt (st : RxState) (s : State) : (restartReceiver st s).ckCnt = s.ckCnt := rfl
@[simp] theorem restartReceiver_intPend (st : RxState) (s : State) : (restartReceiver st s).intPend = s.intPend := rfl
@[simp] theorem restartReceiver_intEn (st : RxState) (s : State) : (restartReceiver st s).intEn = s.intEn := rfl
@[simp] theorem restartReceiver_cmdErr (st : RxState) (s : State) : (restartReceiver st s).cmdErr = s.cmdErr := rfl
@[simp] theorem restartReceiver_recValid (st : RxState) (s : State) : (restartReceiver st s).recValid = false := rfl
@[simp] theorem restartReceiver_recIdx (st : RxState) (s : State) : (restartReceiver st s).recIdx = 0 := rfl
@[simp] theorem restartReceiver_recSec (st : RxState) (s : State) : (restartReceiver st s).recSec = 0 := rfl
@[simp] theorem restartReceiver_recMin (st : RxState) (s : State) : (restartReceiver st s).recMin = 0 := rfl
@[simp] theorem restartReceiver_recHour (st : RxState) (s : State) : (restartReceiver st s).recHour = 0 := rfl
@[simp] theorem restartReceiver_recDay (st : RxState) (s : State) : (restartReceiver st s).recDay = 0 := rfl
@[simp] theorem restartReceiver_recMon (st : RxState) (s : State) : (restartReceiver st s).recMon = 0 := rfl
@[simp] theorem restartReceiver_recDow (st : RxState) (s : State) : (restartReceiver st s).recDow = 0 := rfl
@[simp] theorem restartReceiver_recYear (st : RxState) (s : State) : (restartReceiver st s).recYear = 0 := rfl
@[simp] theorem restartReceiver_recVal (st : RxState) (s : State) : (restartReceiver st s).recVal = 0 := rfl
@[simp] theorem restartReceiver_fbEpoch (st : RxState) (s : State) : (restartReceiver st s).fbEpoch = s.fbEpoch := rfl
@[simp] theorem restartReceiver_inputs (st : RxState) (s : State) : (restartReceiver st s).inputs = s.inputs := rfl
@[simp] theorem restartReceiver_txOut (st : RxState) (s : State) : (restartReceiver st s).txOut = s.txOut := rfl
@[simp] theorem restartReceiver_rdOut (st : RxState) (s : State) : (restartReceiver st s).rdOut = s.rdOut := rfl

/-! ### `armCommon` -/

@[simp] theorem armCommon_syncMode (len : Byte) (s : State) : (armCommon len s).syncMode = s.syncMode := rfl
@[simp] theorem armCommon_rxLen (len : Byte) (s : State) : (armCommon len s).rxLen = s.rxLen := rfl
@[simp] theorem armCommon_rxState (len : Byte) (s : State) : (armCommon len s).rxState = .hunt := rfl
@[simp] theorem armCommon_rxErr (len : Byte) (s : State) : (armCommon len s).rxErr = .none := rfl
@[simp] theorem armCommon_actLen (len : Byte) (s : State) : (armCommon len s).actLen = len := rfl
@[simp] theorem armCommon_actMode (len : Byte) (s : State) : (armCommon len s).actMode = s.syncMode := rfl
@[simp] theorem armCommon_rxCount (len : Byte) (s : State) : (armCommon len s).rxCount = 0 := rfl
@[simp] theorem armCommon_rxSum (len : Byte) (s : State) : (armCommon len s).rxSum = 0 := rfl
@[simp] theorem armCommon_rxSkip (len : Byte) (s : State) : (armCommon len s).rxSkip = 0 := rfl
@[simp] theorem armCommon_rxDrop (len : Byte) (s : State) : (armCommon len s).rxDrop = false := rfl
@[simp] theorem armCommon_fb (len : Byte) (s : State) : (armCommon len s).fb = s.fb := rfl
@[simp] theorem armCommon_txOpen (len : Byte) (s : State) : (armCommon len s).txOpen = s.txOpen := rfl
@[simp] theorem armCommon_txBusy (len : Byte) (s : State) : (armCommon len s).txBusy = s.txBusy := rfl
@[simp] theorem armCommon_txHold (len : Byte) (s : State) : (armCommon len s).txHold = s.txHold := rfl
@[simp] theorem armCommon_txSum (len : Byte) (s : State) : (armCommon len s).txSum = s.txSum := rfl
@[simp] theorem armCommon_txCnt (len : Byte) (s : State) : (armCommon len s).txCnt = s.txCnt := rfl
@[simp] theorem armCommon_ckSum (len : Byte) (s : State) : (armCommon len s).ckSum = s.ckSum := rfl
@[simp] theorem armCommon_ckCnt (len : Byte) (s : State) : (armCommon len s).ckCnt = s.ckCnt := rfl
@[simp] theorem armCommon_intPend (len : Byte) (s : State) : (armCommon len s).intPend = s.intPend := rfl
@[simp] theorem armCommon_intEn (len : Byte) (s : State) : (armCommon len s).intEn = s.intEn := rfl
@[simp] theorem armCommon_cmdErr (len : Byte) (s : State) : (armCommon len s).cmdErr = .ok := rfl
@[simp] theorem armCommon_recValid (len : Byte) (s : State) : (armCommon len s).recValid = false := rfl
@[simp] theorem armCommon_recIdx (len : Byte) (s : State) : (armCommon len s).recIdx = 0 := rfl
@[simp] theorem armCommon_recSec (len : Byte) (s : State) : (armCommon len s).recSec = 0 := rfl
@[simp] theorem armCommon_recMin (len : Byte) (s : State) : (armCommon len s).recMin = 0 := rfl
@[simp] theorem armCommon_recHour (len : Byte) (s : State) : (armCommon len s).recHour = 0 := rfl
@[simp] theorem armCommon_recDay (len : Byte) (s : State) : (armCommon len s).recDay = 0 := rfl
@[simp] theorem armCommon_recMon (len : Byte) (s : State) : (armCommon len s).recMon = 0 := rfl
@[simp] theorem armCommon_recDow (len : Byte) (s : State) : (armCommon len s).recDow = 0 := rfl
@[simp] theorem armCommon_recYear (len : Byte) (s : State) : (armCommon len s).recYear = 0 := rfl
@[simp] theorem armCommon_recVal (len : Byte) (s : State) : (armCommon len s).recVal = 0 := rfl
@[simp] theorem armCommon_fbEpoch (len : Byte) (s : State) : (armCommon len s).fbEpoch = s.fbEpoch := rfl
@[simp] theorem armCommon_inputs (len : Byte) (s : State) : (armCommon len s).inputs = s.inputs := rfl
@[simp] theorem armCommon_txOut (len : Byte) (s : State) : (armCommon len s).txOut = s.txOut := rfl
@[simp] theorem armCommon_rdOut (len : Byte) (s : State) : (armCommon len s).rdOut = s.rdOut := rfl

/-! ### `startFrame` -/

@[simp] theorem startFrame_syncMode (b : Byte) (s : State) : (startFrame b s).syncMode = s.syncMode := rfl
@[simp] theorem startFrame_rxLen (b : Byte) (s : State) : (startFrame b s).rxLen = s.rxLen := rfl
@[simp] theorem startFrame_rxState (b : Byte) (s : State) : (startFrame b s).rxState = .accum := rfl
@[simp] theorem startFrame_rxErr (b : Byte) (s : State) : (startFrame b s).rxErr = s.rxErr := rfl
@[simp] theorem startFrame_actLen (b : Byte) (s : State) : (startFrame b s).actLen = s.actLen := rfl
@[simp] theorem startFrame_actMode (b : Byte) (s : State) : (startFrame b s).actMode = s.actMode := rfl
@[simp] theorem startFrame_rxCount (b : Byte) (s : State) : (startFrame b s).rxCount = 1 := rfl
@[simp] theorem startFrame_rxSum (b : Byte) (s : State) : (startFrame b s).rxSum = b := rfl
@[simp] theorem startFrame_rxSkip (b : Byte) (s : State) : (startFrame b s).rxSkip = s.rxSkip := rfl
@[simp] theorem startFrame_rxDrop (b : Byte) (s : State) : (startFrame b s).rxDrop = s.rxDrop := rfl
@[simp] theorem startFrame_fb (b : Byte) (s : State) : (startFrame b s).fb = fbInsert 0 b s.fb := rfl
@[simp] theorem startFrame_txOpen (b : Byte) (s : State) : (startFrame b s).txOpen = s.txOpen := rfl
@[simp] theorem startFrame_txBusy (b : Byte) (s : State) : (startFrame b s).txBusy = s.txBusy := rfl
@[simp] theorem startFrame_txHold (b : Byte) (s : State) : (startFrame b s).txHold = s.txHold := rfl
@[simp] theorem startFrame_txSum (b : Byte) (s : State) : (startFrame b s).txSum = s.txSum := rfl
@[simp] theorem startFrame_txCnt (b : Byte) (s : State) : (startFrame b s).txCnt = s.txCnt := rfl
@[simp] theorem startFrame_ckSum (b : Byte) (s : State) : (startFrame b s).ckSum = s.ckSum := rfl
@[simp] theorem startFrame_ckCnt (b : Byte) (s : State) : (startFrame b s).ckCnt = s.ckCnt := rfl
@[simp] theorem startFrame_intPend (b : Byte) (s : State) : (startFrame b s).intPend = s.intPend := rfl
@[simp] theorem startFrame_intEn (b : Byte) (s : State) : (startFrame b s).intEn = s.intEn := rfl
@[simp] theorem startFrame_cmdErr (b : Byte) (s : State) : (startFrame b s).cmdErr = s.cmdErr := rfl
@[simp] theorem startFrame_recValid (b : Byte) (s : State) : (startFrame b s).recValid = s.recValid := rfl
@[simp] theorem startFrame_recIdx (b : Byte) (s : State) : (startFrame b s).recIdx = s.recIdx := rfl
@[simp] theorem startFrame_recSec (b : Byte) (s : State) : (startFrame b s).recSec = s.recSec := rfl
@[simp] theorem startFrame_recMin (b : Byte) (s : State) : (startFrame b s).recMin = s.recMin := rfl
@[simp] theorem startFrame_recHour (b : Byte) (s : State) : (startFrame b s).recHour = s.recHour := rfl
@[simp] theorem startFrame_recDay (b : Byte) (s : State) : (startFrame b s).recDay = s.recDay := rfl
@[simp] theorem startFrame_recMon (b : Byte) (s : State) : (startFrame b s).recMon = s.recMon := rfl
@[simp] theorem startFrame_recDow (b : Byte) (s : State) : (startFrame b s).recDow = s.recDow := rfl
@[simp] theorem startFrame_recYear (b : Byte) (s : State) : (startFrame b s).recYear = s.recYear := rfl
@[simp] theorem startFrame_recVal (b : Byte) (s : State) : (startFrame b s).recVal = s.recVal := rfl
@[simp] theorem startFrame_fbEpoch (b : Byte) (s : State) : (startFrame b s).fbEpoch = s.fbEpoch := rfl
@[simp] theorem startFrame_inputs (b : Byte) (s : State) : (startFrame b s).inputs = s.inputs := rfl
@[simp] theorem startFrame_txOut (b : Byte) (s : State) : (startFrame b s).txOut = s.txOut := rfl
@[simp] theorem startFrame_rdOut (b : Byte) (s : State) : (startFrame b s).rdOut = s.rdOut := rfl

/-! ### `emit` -/

@[simp] theorem emit_syncMode (b : Byte) (s : State) : (emit b s).syncMode = s.syncMode := rfl
@[simp] theorem emit_rxLen (b : Byte) (s : State) : (emit b s).rxLen = s.rxLen := rfl
@[simp] theorem emit_rxState (b : Byte) (s : State) : (emit b s).rxState = s.rxState := rfl
@[simp] theorem emit_rxErr (b : Byte) (s : State) : (emit b s).rxErr = s.rxErr := rfl
@[simp] theorem emit_actLen (b : Byte) (s : State) : (emit b s).actLen = s.actLen := rfl
@[simp] theorem emit_actMode (b : Byte) (s : State) : (emit b s).actMode = s.actMode := rfl
@[simp] theorem emit_rxCount (b : Byte) (s : State) : (emit b s).rxCount = s.rxCount := rfl
@[simp] theorem emit_rxSum (b : Byte) (s : State) : (emit b s).rxSum = s.rxSum := rfl
@[simp] theorem emit_rxSkip (b : Byte) (s : State) : (emit b s).rxSkip = s.rxSkip := rfl
@[simp] theorem emit_rxDrop (b : Byte) (s : State) : (emit b s).rxDrop = s.rxDrop := rfl
@[simp] theorem emit_fb (b : Byte) (s : State) : (emit b s).fb = s.fb := rfl
@[simp] theorem emit_txOpen (b : Byte) (s : State) : (emit b s).txOpen = s.txOpen := rfl
@[simp] theorem emit_txBusy (b : Byte) (s : State) : (emit b s).txBusy = true := rfl
@[simp] theorem emit_txHold (b : Byte) (s : State) : (emit b s).txHold = b := rfl
@[simp] theorem emit_txSum (b : Byte) (s : State) : (emit b s).txSum = s.txSum + b := rfl
@[simp] theorem emit_txCnt (b : Byte) (s : State) : (emit b s).txCnt = sat8 (s.txCnt.toNat + 1) := rfl
@[simp] theorem emit_ckSum (b : Byte) (s : State) : (emit b s).ckSum = s.ckSum := rfl
@[simp] theorem emit_ckCnt (b : Byte) (s : State) : (emit b s).ckCnt = s.ckCnt := rfl
@[simp] theorem emit_intPend (b : Byte) (s : State) : (emit b s).intPend = s.intPend := rfl
@[simp] theorem emit_intEn (b : Byte) (s : State) : (emit b s).intEn = s.intEn := rfl
@[simp] theorem emit_cmdErr (b : Byte) (s : State) : (emit b s).cmdErr = s.cmdErr := rfl
@[simp] theorem emit_recValid (b : Byte) (s : State) : (emit b s).recValid = s.recValid := rfl
@[simp] theorem emit_recIdx (b : Byte) (s : State) : (emit b s).recIdx = s.recIdx := rfl
@[simp] theorem emit_recSec (b : Byte) (s : State) : (emit b s).recSec = s.recSec := rfl
@[simp] theorem emit_recMin (b : Byte) (s : State) : (emit b s).recMin = s.recMin := rfl
@[simp] theorem emit_recHour (b : Byte) (s : State) : (emit b s).recHour = s.recHour := rfl
@[simp] theorem emit_recDay (b : Byte) (s : State) : (emit b s).recDay = s.recDay := rfl
@[simp] theorem emit_recMon (b : Byte) (s : State) : (emit b s).recMon = s.recMon := rfl
@[simp] theorem emit_recDow (b : Byte) (s : State) : (emit b s).recDow = s.recDow := rfl
@[simp] theorem emit_recYear (b : Byte) (s : State) : (emit b s).recYear = s.recYear := rfl
@[simp] theorem emit_recVal (b : Byte) (s : State) : (emit b s).recVal = s.recVal := rfl
@[simp] theorem emit_fbEpoch (b : Byte) (s : State) : (emit b s).fbEpoch = s.fbEpoch := rfl
@[simp] theorem emit_inputs (b : Byte) (s : State) : (emit b s).inputs = s.inputs := rfl
@[simp] theorem emit_txOut (b : Byte) (s : State) : (emit b s).txOut = s.txOut := rfl
@[simp] theorem emit_rdOut (b : Byte) (s : State) : (emit b s).rdOut = s.rdOut := rfl

/-! ### `emptyHold` -/

@[simp] theorem emptyHold_syncMode (s : State) : (emptyHold s).syncMode = s.syncMode := rfl
@[simp] theorem emptyHold_rxLen (s : State) : (emptyHold s).rxLen = s.rxLen := rfl
@[simp] theorem emptyHold_rxState (s : State) : (emptyHold s).rxState = s.rxState := rfl
@[simp] theorem emptyHold_rxErr (s : State) : (emptyHold s).rxErr = s.rxErr := rfl
@[simp] theorem emptyHold_actLen (s : State) : (emptyHold s).actLen = s.actLen := rfl
@[simp] theorem emptyHold_actMode (s : State) : (emptyHold s).actMode = s.actMode := rfl
@[simp] theorem emptyHold_rxCount (s : State) : (emptyHold s).rxCount = s.rxCount := rfl
@[simp] theorem emptyHold_rxSum (s : State) : (emptyHold s).rxSum = s.rxSum := rfl
@[simp] theorem emptyHold_rxSkip (s : State) : (emptyHold s).rxSkip = s.rxSkip := rfl
@[simp] theorem emptyHold_rxDrop (s : State) : (emptyHold s).rxDrop = s.rxDrop := rfl
@[simp] theorem emptyHold_fb (s : State) : (emptyHold s).fb = s.fb := rfl
@[simp] theorem emptyHold_txOpen (s : State) : (emptyHold s).txOpen = s.txOpen := rfl
@[simp] theorem emptyHold_txBusy (s : State) : (emptyHold s).txBusy = false := rfl
@[simp] theorem emptyHold_txHold (s : State) : (emptyHold s).txHold = 0 := rfl
@[simp] theorem emptyHold_txSum (s : State) : (emptyHold s).txSum = s.txSum := rfl
@[simp] theorem emptyHold_txCnt (s : State) : (emptyHold s).txCnt = s.txCnt := rfl
@[simp] theorem emptyHold_ckSum (s : State) : (emptyHold s).ckSum = s.ckSum := rfl
@[simp] theorem emptyHold_ckCnt (s : State) : (emptyHold s).ckCnt = s.ckCnt := rfl
@[simp] theorem emptyHold_intPend (s : State) : (emptyHold s).intPend = s.intPend := rfl
@[simp] theorem emptyHold_intEn (s : State) : (emptyHold s).intEn = s.intEn := rfl
@[simp] theorem emptyHold_cmdErr (s : State) : (emptyHold s).cmdErr = s.cmdErr := rfl
@[simp] theorem emptyHold_recValid (s : State) : (emptyHold s).recValid = s.recValid := rfl
@[simp] theorem emptyHold_recIdx (s : State) : (emptyHold s).recIdx = s.recIdx := rfl
@[simp] theorem emptyHold_recSec (s : State) : (emptyHold s).recSec = s.recSec := rfl
@[simp] theorem emptyHold_recMin (s : State) : (emptyHold s).recMin = s.recMin := rfl
@[simp] theorem emptyHold_recHour (s : State) : (emptyHold s).recHour = s.recHour := rfl
@[simp] theorem emptyHold_recDay (s : State) : (emptyHold s).recDay = s.recDay := rfl
@[simp] theorem emptyHold_recMon (s : State) : (emptyHold s).recMon = s.recMon := rfl
@[simp] theorem emptyHold_recDow (s : State) : (emptyHold s).recDow = s.recDow := rfl
@[simp] theorem emptyHold_recYear (s : State) : (emptyHold s).recYear = s.recYear := rfl
@[simp] theorem emptyHold_recVal (s : State) : (emptyHold s).recVal = s.recVal := rfl
@[simp] theorem emptyHold_fbEpoch (s : State) : (emptyHold s).fbEpoch = s.fbEpoch := rfl
@[simp] theorem emptyHold_inputs (s : State) : (emptyHold s).inputs = s.inputs := rfl
@[simp] theorem emptyHold_txOut (s : State) : (emptyHold s).txOut = s.txOut := rfl
@[simp] theorem emptyHold_rdOut (s : State) : (emptyHold s).rdOut = s.rdOut := rfl

/-! ### `loadRecord` -/

@[simp] theorem loadRecord_syncMode (k : Nibble) (s : State) : (loadRecord k s).syncMode = s.syncMode := rfl
@[simp] theorem loadRecord_rxLen (k : Nibble) (s : State) : (loadRecord k s).rxLen = s.rxLen := rfl
@[simp] theorem loadRecord_rxState (k : Nibble) (s : State) : (loadRecord k s).rxState = s.rxState := rfl
@[simp] theorem loadRecord_rxErr (k : Nibble) (s : State) : (loadRecord k s).rxErr = s.rxErr := rfl
@[simp] theorem loadRecord_actLen (k : Nibble) (s : State) : (loadRecord k s).actLen = s.actLen := rfl
@[simp] theorem loadRecord_actMode (k : Nibble) (s : State) : (loadRecord k s).actMode = s.actMode := rfl
@[simp] theorem loadRecord_rxCount (k : Nibble) (s : State) : (loadRecord k s).rxCount = s.rxCount := rfl
@[simp] theorem loadRecord_rxSum (k : Nibble) (s : State) : (loadRecord k s).rxSum = s.rxSum := rfl
@[simp] theorem loadRecord_rxSkip (k : Nibble) (s : State) : (loadRecord k s).rxSkip = s.rxSkip := rfl
@[simp] theorem loadRecord_rxDrop (k : Nibble) (s : State) : (loadRecord k s).rxDrop = s.rxDrop := rfl
@[simp] theorem loadRecord_fb (k : Nibble) (s : State) : (loadRecord k s).fb = s.fb := rfl
@[simp] theorem loadRecord_txOpen (k : Nibble) (s : State) : (loadRecord k s).txOpen = s.txOpen := rfl
@[simp] theorem loadRecord_txBusy (k : Nibble) (s : State) : (loadRecord k s).txBusy = s.txBusy := rfl
@[simp] theorem loadRecord_txHold (k : Nibble) (s : State) : (loadRecord k s).txHold = s.txHold := rfl
@[simp] theorem loadRecord_txSum (k : Nibble) (s : State) : (loadRecord k s).txSum = s.txSum := rfl
@[simp] theorem loadRecord_txCnt (k : Nibble) (s : State) : (loadRecord k s).txCnt = s.txCnt := rfl
@[simp] theorem loadRecord_ckSum (k : Nibble) (s : State) : (loadRecord k s).ckSum = s.ckSum := rfl
@[simp] theorem loadRecord_ckCnt (k : Nibble) (s : State) : (loadRecord k s).ckCnt = s.ckCnt := rfl
@[simp] theorem loadRecord_intPend (k : Nibble) (s : State) : (loadRecord k s).intPend = s.intPend := rfl
@[simp] theorem loadRecord_intEn (k : Nibble) (s : State) : (loadRecord k s).intEn = s.intEn := rfl
@[simp] theorem loadRecord_cmdErr (k : Nibble) (s : State) : (loadRecord k s).cmdErr = s.cmdErr := rfl
@[simp] theorem loadRecord_recValid (k : Nibble) (s : State) : (loadRecord k s).recValid = true := rfl
@[simp] theorem loadRecord_recIdx (k : Nibble) (s : State) : (loadRecord k s).recIdx = k := rfl
@[simp] theorem loadRecord_recSec (k : Nibble) (s : State) : (loadRecord k s).recSec = recSecond (fbByte s (slotBase k + 0)) := rfl
@[simp] theorem loadRecord_recMin (k : Nibble) (s : State) : (loadRecord k s).recMin = recMinuteOf (fbByte s (slotBase k + 1)) (fbByte s (slotBase k + 2)) := rfl
@[simp] theorem loadRecord_recHour (k : Nibble) (s : State) : (loadRecord k s).recHour = recHourOf (fbByte s (slotBase k + 1)) := rfl
@[simp] theorem loadRecord_recDay (k : Nibble) (s : State) : (loadRecord k s).recDay = recDayOf (fbByte s (slotBase k + 2)) := rfl
@[simp] theorem loadRecord_recMon (k : Nibble) (s : State) : (loadRecord k s).recMon = recMonthOf (fbByte s (slotBase k + 3)) := rfl
@[simp] theorem loadRecord_recDow (k : Nibble) (s : State) : (loadRecord k s).recDow = recDowOf (fbByte s (slotBase k + 3)) := rfl
@[simp] theorem loadRecord_recYear (k : Nibble) (s : State) : (loadRecord k s).recYear = recYearOf (fbByte s (slotBase k + 4)) (fbByte s (slotBase k + 5)) := rfl
@[simp] theorem loadRecord_recVal (k : Nibble) (s : State) : (loadRecord k s).recVal = recValueOf (fbByte s (slotBase k + 6)) (fbByte s (slotBase k + 7)) (fbByte s (slotBase k + 8)) (fbByte s (slotBase k + 9)) := rfl
@[simp] theorem loadRecord_fbEpoch (k : Nibble) (s : State) : (loadRecord k s).fbEpoch = s.fbEpoch := rfl
@[simp] theorem loadRecord_inputs (k : Nibble) (s : State) : (loadRecord k s).inputs = s.inputs := rfl
@[simp] theorem loadRecord_txOut (k : Nibble) (s : State) : (loadRecord k s).txOut = s.txOut := rfl
@[simp] theorem loadRecord_rdOut (k : Nibble) (s : State) : (loadRecord k s).rdOut = s.rdOut := rfl

/-! ### `returnWord` -/

@[simp] theorem returnWord_syncMode (v : Word) (s : State) : (returnWord v s).syncMode = s.syncMode := rfl
@[simp] theorem returnWord_rxLen (v : Word) (s : State) : (returnWord v s).rxLen = s.rxLen := rfl
@[simp] theorem returnWord_rxState (v : Word) (s : State) : (returnWord v s).rxState = s.rxState := rfl
@[simp] theorem returnWord_rxErr (v : Word) (s : State) : (returnWord v s).rxErr = s.rxErr := rfl
@[simp] theorem returnWord_actLen (v : Word) (s : State) : (returnWord v s).actLen = s.actLen := rfl
@[simp] theorem returnWord_actMode (v : Word) (s : State) : (returnWord v s).actMode = s.actMode := rfl
@[simp] theorem returnWord_rxCount (v : Word) (s : State) : (returnWord v s).rxCount = s.rxCount := rfl
@[simp] theorem returnWord_rxSum (v : Word) (s : State) : (returnWord v s).rxSum = s.rxSum := rfl
@[simp] theorem returnWord_rxSkip (v : Word) (s : State) : (returnWord v s).rxSkip = s.rxSkip := rfl
@[simp] theorem returnWord_rxDrop (v : Word) (s : State) : (returnWord v s).rxDrop = s.rxDrop := rfl
@[simp] theorem returnWord_fb (v : Word) (s : State) : (returnWord v s).fb = s.fb := rfl
@[simp] theorem returnWord_txOpen (v : Word) (s : State) : (returnWord v s).txOpen = s.txOpen := rfl
@[simp] theorem returnWord_txBusy (v : Word) (s : State) : (returnWord v s).txBusy = s.txBusy := rfl
@[simp] theorem returnWord_txHold (v : Word) (s : State) : (returnWord v s).txHold = s.txHold := rfl
@[simp] theorem returnWord_txSum (v : Word) (s : State) : (returnWord v s).txSum = s.txSum := rfl
@[simp] theorem returnWord_txCnt (v : Word) (s : State) : (returnWord v s).txCnt = s.txCnt := rfl
@[simp] theorem returnWord_ckSum (v : Word) (s : State) : (returnWord v s).ckSum = s.ckSum := rfl
@[simp] theorem returnWord_ckCnt (v : Word) (s : State) : (returnWord v s).ckCnt = s.ckCnt := rfl
@[simp] theorem returnWord_intPend (v : Word) (s : State) : (returnWord v s).intPend = s.intPend := rfl
@[simp] theorem returnWord_intEn (v : Word) (s : State) : (returnWord v s).intEn = s.intEn := rfl
@[simp] theorem returnWord_cmdErr (v : Word) (s : State) : (returnWord v s).cmdErr = s.cmdErr := rfl
@[simp] theorem returnWord_recValid (v : Word) (s : State) : (returnWord v s).recValid = s.recValid := rfl
@[simp] theorem returnWord_recIdx (v : Word) (s : State) : (returnWord v s).recIdx = s.recIdx := rfl
@[simp] theorem returnWord_recSec (v : Word) (s : State) : (returnWord v s).recSec = s.recSec := rfl
@[simp] theorem returnWord_recMin (v : Word) (s : State) : (returnWord v s).recMin = s.recMin := rfl
@[simp] theorem returnWord_recHour (v : Word) (s : State) : (returnWord v s).recHour = s.recHour := rfl
@[simp] theorem returnWord_recDay (v : Word) (s : State) : (returnWord v s).recDay = s.recDay := rfl
@[simp] theorem returnWord_recMon (v : Word) (s : State) : (returnWord v s).recMon = s.recMon := rfl
@[simp] theorem returnWord_recDow (v : Word) (s : State) : (returnWord v s).recDow = s.recDow := rfl
@[simp] theorem returnWord_recYear (v : Word) (s : State) : (returnWord v s).recYear = s.recYear := rfl
@[simp] theorem returnWord_recVal (v : Word) (s : State) : (returnWord v s).recVal = s.recVal := rfl
@[simp] theorem returnWord_fbEpoch (v : Word) (s : State) : (returnWord v s).fbEpoch = s.fbEpoch := rfl
@[simp] theorem returnWord_inputs (v : Word) (s : State) : (returnWord v s).inputs = s.inputs := rfl
@[simp] theorem returnWord_txOut (v : Word) (s : State) : (returnWord v s).txOut = s.txOut := rfl
@[simp] theorem returnWord_rdOut (v : Word) (s : State) : (returnWord v s).rdOut = s.rdOut ++ [v] := rfl

/-! ### `resetAll` -/

@[simp] theorem resetAll_syncMode (s : State) : (resetAll s).syncMode = .strict := rfl
@[simp] theorem resetAll_rxLen (s : State) : (resetAll s).rxLen = 0 := rfl
@[simp] theorem resetAll_rxState (s : State) : (resetAll s).rxState = .idle := rfl
@[simp] theorem resetAll_rxErr (s : State) : (resetAll s).rxErr = .none := rfl
@[simp] theorem resetAll_actLen (s : State) : (resetAll s).actLen = 0 := rfl
@[simp] theorem resetAll_actMode (s : State) : (resetAll s).actMode = .strict := rfl
@[simp] theorem resetAll_rxCount (s : State) : (resetAll s).rxCount = 0 := rfl
@[simp] theorem resetAll_rxSum (s : State) : (resetAll s).rxSum = 0 := rfl
@[simp] theorem resetAll_rxSkip (s : State) : (resetAll s).rxSkip = 0 := rfl
@[simp] theorem resetAll_rxDrop (s : State) : (resetAll s).rxDrop = false := rfl
@[simp] theorem resetAll_fb (s : State) : (resetAll s).fb = [] := rfl
@[simp] theorem resetAll_txOpen (s : State) : (resetAll s).txOpen = false := rfl
@[simp] theorem resetAll_txBusy (s : State) : (resetAll s).txBusy = false := rfl
@[simp] theorem resetAll_txHold (s : State) : (resetAll s).txHold = 0 := rfl
@[simp] theorem resetAll_txSum (s : State) : (resetAll s).txSum = 0 := rfl
@[simp] theorem resetAll_txCnt (s : State) : (resetAll s).txCnt = 0 := rfl
@[simp] theorem resetAll_ckSum (s : State) : (resetAll s).ckSum = 0 := rfl
@[simp] theorem resetAll_ckCnt (s : State) : (resetAll s).ckCnt = 0 := rfl
@[simp] theorem resetAll_intPend (s : State) : (resetAll s).intPend = 0 := rfl
@[simp] theorem resetAll_intEn (s : State) : (resetAll s).intEn = 0 := rfl
@[simp] theorem resetAll_cmdErr (s : State) : (resetAll s).cmdErr = .ok := rfl
@[simp] theorem resetAll_recValid (s : State) : (resetAll s).recValid = false := rfl
@[simp] theorem resetAll_recIdx (s : State) : (resetAll s).recIdx = 0 := rfl
@[simp] theorem resetAll_recSec (s : State) : (resetAll s).recSec = 0 := rfl
@[simp] theorem resetAll_recMin (s : State) : (resetAll s).recMin = 0 := rfl
@[simp] theorem resetAll_recHour (s : State) : (resetAll s).recHour = 0 := rfl
@[simp] theorem resetAll_recDay (s : State) : (resetAll s).recDay = 0 := rfl
@[simp] theorem resetAll_recMon (s : State) : (resetAll s).recMon = 0 := rfl
@[simp] theorem resetAll_recDow (s : State) : (resetAll s).recDow = 0 := rfl
@[simp] theorem resetAll_recYear (s : State) : (resetAll s).recYear = 0 := rfl
@[simp] theorem resetAll_recVal (s : State) : (resetAll s).recVal = 0 := rfl
@[simp] theorem resetAll_fbEpoch (s : State) : (resetAll s).fbEpoch = s.fbEpoch + 1 := rfl
@[simp] theorem resetAll_inputs (s : State) : (resetAll s).inputs = s.inputs := rfl
@[simp] theorem resetAll_txOut (s : State) : (resetAll s).txOut = s.txOut := rfl
@[simp] theorem resetAll_rdOut (s : State) : (resetAll s).rdOut = s.rdOut := rfl

/-! ### `queueEvent` -/

@[simp] theorem queueEvent_syncMode (e : PortEvent) (s : State) : (queueEvent e s).syncMode = s.syncMode := rfl
@[simp] theorem queueEvent_rxLen (e : PortEvent) (s : State) : (queueEvent e s).rxLen = s.rxLen := rfl
@[simp] theorem queueEvent_rxState (e : PortEvent) (s : State) : (queueEvent e s).rxState = s.rxState := rfl
@[simp] theorem queueEvent_rxErr (e : PortEvent) (s : State) : (queueEvent e s).rxErr = s.rxErr := rfl
@[simp] theorem queueEvent_actLen (e : PortEvent) (s : State) : (queueEvent e s).actLen = s.actLen := rfl
@[simp] theorem queueEvent_actMode (e : PortEvent) (s : State) : (queueEvent e s).actMode = s.actMode := rfl
@[simp] theorem queueEvent_rxCount (e : PortEvent) (s : State) : (queueEvent e s).rxCount = s.rxCount := rfl
@[simp] theorem queueEvent_rxSum (e : PortEvent) (s : State) : (queueEvent e s).rxSum = s.rxSum := rfl
@[simp] theorem queueEvent_rxSkip (e : PortEvent) (s : State) : (queueEvent e s).rxSkip = s.rxSkip := rfl
@[simp] theorem queueEvent_rxDrop (e : PortEvent) (s : State) : (queueEvent e s).rxDrop = s.rxDrop := rfl
@[simp] theorem queueEvent_fb (e : PortEvent) (s : State) : (queueEvent e s).fb = s.fb := rfl
@[simp] theorem queueEvent_txOpen (e : PortEvent) (s : State) : (queueEvent e s).txOpen = s.txOpen := rfl
@[simp] theorem queueEvent_txBusy (e : PortEvent) (s : State) : (queueEvent e s).txBusy = s.txBusy := rfl
@[simp] theorem queueEvent_txHold (e : PortEvent) (s : State) : (queueEvent e s).txHold = s.txHold := rfl
@[simp] theorem queueEvent_txSum (e : PortEvent) (s : State) : (queueEvent e s).txSum = s.txSum := rfl
@[simp] theorem queueEvent_txCnt (e : PortEvent) (s : State) : (queueEvent e s).txCnt = s.txCnt := rfl
@[simp] theorem queueEvent_ckSum (e : PortEvent) (s : State) : (queueEvent e s).ckSum = s.ckSum := rfl
@[simp] theorem queueEvent_ckCnt (e : PortEvent) (s : State) : (queueEvent e s).ckCnt = s.ckCnt := rfl
@[simp] theorem queueEvent_intPend (e : PortEvent) (s : State) : (queueEvent e s).intPend = s.intPend := rfl
@[simp] theorem queueEvent_intEn (e : PortEvent) (s : State) : (queueEvent e s).intEn = s.intEn := rfl
@[simp] theorem queueEvent_cmdErr (e : PortEvent) (s : State) : (queueEvent e s).cmdErr = s.cmdErr := rfl
@[simp] theorem queueEvent_recValid (e : PortEvent) (s : State) : (queueEvent e s).recValid = s.recValid := rfl
@[simp] theorem queueEvent_recIdx (e : PortEvent) (s : State) : (queueEvent e s).recIdx = s.recIdx := rfl
@[simp] theorem queueEvent_recSec (e : PortEvent) (s : State) : (queueEvent e s).recSec = s.recSec := rfl
@[simp] theorem queueEvent_recMin (e : PortEvent) (s : State) : (queueEvent e s).recMin = s.recMin := rfl
@[simp] theorem queueEvent_recHour (e : PortEvent) (s : State) : (queueEvent e s).recHour = s.recHour := rfl
@[simp] theorem queueEvent_recDay (e : PortEvent) (s : State) : (queueEvent e s).recDay = s.recDay := rfl
@[simp] theorem queueEvent_recMon (e : PortEvent) (s : State) : (queueEvent e s).recMon = s.recMon := rfl
@[simp] theorem queueEvent_recDow (e : PortEvent) (s : State) : (queueEvent e s).recDow = s.recDow := rfl
@[simp] theorem queueEvent_recYear (e : PortEvent) (s : State) : (queueEvent e s).recYear = s.recYear := rfl
@[simp] theorem queueEvent_recVal (e : PortEvent) (s : State) : (queueEvent e s).recVal = s.recVal := rfl
@[simp] theorem queueEvent_fbEpoch (e : PortEvent) (s : State) : (queueEvent e s).fbEpoch = s.fbEpoch := rfl
@[simp] theorem queueEvent_inputs (e : PortEvent) (s : State) : (queueEvent e s).inputs = PortCycle.ofEvent e :: s.inputs := rfl
@[simp] theorem queueEvent_txOut (e : PortEvent) (s : State) : (queueEvent e s).txOut = s.txOut := rfl
@[simp] theorem queueEvent_rdOut (e : PortEvent) (s : State) : (queueEvent e s).rdOut = s.rdOut := rfl

/-! ### `loadScript` -/

@[simp] theorem loadScript_syncMode (es : List PortEvent) (s : State) : (loadScript es s).syncMode = s.syncMode := rfl
@[simp] theorem loadScript_rxLen (es : List PortEvent) (s : State) : (loadScript es s).rxLen = s.rxLen := rfl
@[simp] theorem loadScript_rxState (es : List PortEvent) (s : State) : (loadScript es s).rxState = s.rxState := rfl
@[simp] theorem loadScript_rxErr (es : List PortEvent) (s : State) : (loadScript es s).rxErr = s.rxErr := rfl
@[simp] theorem loadScript_actLen (es : List PortEvent) (s : State) : (loadScript es s).actLen = s.actLen := rfl
@[simp] theorem loadScript_actMode (es : List PortEvent) (s : State) : (loadScript es s).actMode = s.actMode := rfl
@[simp] theorem loadScript_rxCount (es : List PortEvent) (s : State) : (loadScript es s).rxCount = s.rxCount := rfl
@[simp] theorem loadScript_rxSum (es : List PortEvent) (s : State) : (loadScript es s).rxSum = s.rxSum := rfl
@[simp] theorem loadScript_rxSkip (es : List PortEvent) (s : State) : (loadScript es s).rxSkip = s.rxSkip := rfl
@[simp] theorem loadScript_rxDrop (es : List PortEvent) (s : State) : (loadScript es s).rxDrop = s.rxDrop := rfl
@[simp] theorem loadScript_fb (es : List PortEvent) (s : State) : (loadScript es s).fb = s.fb := rfl
@[simp] theorem loadScript_txOpen (es : List PortEvent) (s : State) : (loadScript es s).txOpen = s.txOpen := rfl
@[simp] theorem loadScript_txBusy (es : List PortEvent) (s : State) : (loadScript es s).txBusy = s.txBusy := rfl
@[simp] theorem loadScript_txHold (es : List PortEvent) (s : State) : (loadScript es s).txHold = s.txHold := rfl
@[simp] theorem loadScript_txSum (es : List PortEvent) (s : State) : (loadScript es s).txSum = s.txSum := rfl
@[simp] theorem loadScript_txCnt (es : List PortEvent) (s : State) : (loadScript es s).txCnt = s.txCnt := rfl
@[simp] theorem loadScript_ckSum (es : List PortEvent) (s : State) : (loadScript es s).ckSum = s.ckSum := rfl
@[simp] theorem loadScript_ckCnt (es : List PortEvent) (s : State) : (loadScript es s).ckCnt = s.ckCnt := rfl
@[simp] theorem loadScript_intPend (es : List PortEvent) (s : State) : (loadScript es s).intPend = s.intPend := rfl
@[simp] theorem loadScript_intEn (es : List PortEvent) (s : State) : (loadScript es s).intEn = s.intEn := rfl
@[simp] theorem loadScript_cmdErr (es : List PortEvent) (s : State) : (loadScript es s).cmdErr = s.cmdErr := rfl
@[simp] theorem loadScript_recValid (es : List PortEvent) (s : State) : (loadScript es s).recValid = s.recValid := rfl
@[simp] theorem loadScript_recIdx (es : List PortEvent) (s : State) : (loadScript es s).recIdx = s.recIdx := rfl
@[simp] theorem loadScript_recSec (es : List PortEvent) (s : State) : (loadScript es s).recSec = s.recSec := rfl
@[simp] theorem loadScript_recMin (es : List PortEvent) (s : State) : (loadScript es s).recMin = s.recMin := rfl
@[simp] theorem loadScript_recHour (es : List PortEvent) (s : State) : (loadScript es s).recHour = s.recHour := rfl
@[simp] theorem loadScript_recDay (es : List PortEvent) (s : State) : (loadScript es s).recDay = s.recDay := rfl
@[simp] theorem loadScript_recMon (es : List PortEvent) (s : State) : (loadScript es s).recMon = s.recMon := rfl
@[simp] theorem loadScript_recDow (es : List PortEvent) (s : State) : (loadScript es s).recDow = s.recDow := rfl
@[simp] theorem loadScript_recYear (es : List PortEvent) (s : State) : (loadScript es s).recYear = s.recYear := rfl
@[simp] theorem loadScript_recVal (es : List PortEvent) (s : State) : (loadScript es s).recVal = s.recVal := rfl
@[simp] theorem loadScript_fbEpoch (es : List PortEvent) (s : State) : (loadScript es s).fbEpoch = s.fbEpoch := rfl
@[simp] theorem loadScript_inputs (es : List PortEvent) (s : State) : (loadScript es s).inputs = s.inputs ++ es.map PortCycle.ofEvent := rfl
@[simp] theorem loadScript_txOut (es : List PortEvent) (s : State) : (loadScript es s).txOut = s.txOut := rfl
@[simp] theorem loadScript_rdOut (es : List PortEvent) (s : State) : (loadScript es s).rdOut = s.rdOut := rfl

end Sys2Proof.Machine
end

