-- ==== Sys2Proof/Laws/FrameBuffer.lean ====
section
/-! SUPPORT. The laws of the frame buffer: a read after a write, the canonical form, which every memory operation keeps, and
the frame received so far. -/

namespace Sys2Proof.Machine

/-! ### Reading after writing -/

theorem fbLookup_fbInsert (i j : Nat) (b : Byte) (m : Memory) :
    fbLookup (fbInsert i b m) j = if i = j then some b else fbLookup m j := by
  induction m with
  | nil => simp [fbInsert, fbLookup]
  | cons c m ih =>
    obtain ⟨a, x⟩ := c
    simp only [fbInsert]
    split
    · simp [fbLookup]
    · split
      · rename_i h; subst h
        by_cases hj : i = j <;> simp [fbLookup, hj]
      · simp only [fbLookup, ih]
        by_cases ha : a = j
        · subst ha; simp_all
        · simp [ha]

@[simp] theorem fbLookup_fbInsert_same (i : Nat) (b : Byte) (m : Memory) : fbLookup (fbInsert i b m) i = some b := by
  simp [fbLookup_fbInsert]

theorem fbLookup_fbInsert_other {i j : Nat} (b : Byte) (m : Memory) (h : j ≠ i) :
    fbLookup (fbInsert i b m) j = fbLookup m j := by
  simp [fbLookup_fbInsert, Ne.symm h]

/-- A byte of FB depends on the listed bytes and the index of the free content alone. -/
theorem fbByte_congr {s t : State} (hf : t.fb = s.fb) (he : t.fbEpoch = s.fbEpoch) (i : Nat) : fbByte t i = fbByte s i := by
  simp [fbByte, hf, he]

/-- A byte whose listing in FB is the same, and which is listed, is the same whatever the free content. -/
theorem fbByte_of_lookup {s : State} {i : Nat} {b : Byte} (h : fbLookup s.fb i = some b) : fbByte s i = b := by
  simp [fbByte, h]

/-- The byte just written reads back. -/
theorem fbByte_of_insert_same {s : State} {m : Memory} {i : Nat} {b : Byte} (h : s.fb = fbInsert i b m) : fbByte s i = b := by
  simp [fbByte, h]

/-- Every other byte reads as before the write. -/
theorem fbByte_of_insert_other {s t : State} {i j : Nat} {b : Byte} (hf : t.fb = fbInsert i b s.fb)
    (he : t.fbEpoch = s.fbEpoch) (h : j ≠ i) : fbByte t j = fbByte s j := by
  simp [fbByte, hf, he, fbLookup_fbInsert_other b s.fb h]

@[simp] theorem fbByte_fbStore_same (i : Nat) (b : Byte) (s : State) : fbByte (fbStore i b s) i = b :=
  fbByte_of_insert_same (fbStore_fb i b s)

theorem fbByte_fbStore_other {i j : Nat} (b : Byte) (s : State) (h : j ≠ i) : fbByte (fbStore i b s) j = fbByte s j :=
  fbByte_of_insert_other (fbStore_fb i b s) (fbStore_fbEpoch i b s) h

/-! ### The canonical form -/

theorem risesFrom_mono {lo lo' : Nat} {m : Memory} (h : Memory.risesFrom lo m = true) (hl : lo' ≤ lo) :
    Memory.risesFrom lo' m = true := by
  cases m with
  | nil => rfl
  | cons c m => simp only [Memory.risesFrom, Bool.and_eq_true, decide_eq_true_eq] at h ⊢; exact ⟨⟨by omega, h.1.2⟩, h.2⟩

theorem risesFrom_fbInsert {lo i : Nat} (b : Byte) {m : Memory} (h : Memory.risesFrom lo m = true) (hlo : lo ≤ i)
    (hi : i < Config.fbDepth) : Memory.risesFrom lo (fbInsert i b m) = true := by
  induction m generalizing lo with
  | nil => simp [fbInsert, Memory.risesFrom, hlo, hi]
  | cons c m ih =>
    obtain ⟨a, x⟩ := c
    simp only [Memory.risesFrom, Bool.and_eq_true, decide_eq_true_eq] at h
    simp only [fbInsert]
    split
    · rename_i hia
      simp only [Memory.risesFrom, Bool.and_eq_true, decide_eq_true_eq]
      exact ⟨⟨hlo, hi⟩, ⟨by omega, h.1.2⟩, h.2⟩
    · split
      · rename_i hia; subst hia
        simp only [Memory.risesFrom, Bool.and_eq_true, decide_eq_true_eq]
        exact ⟨⟨hlo, hi⟩, h.2⟩
      · simp only [Memory.risesFrom, Bool.and_eq_true, decide_eq_true_eq]
        exact ⟨h.1, ih h.2 (by omega)⟩

/-- Writing a byte below `FB_DEPTH` keeps the canonical form. -/
theorem fbInsert_wf {i : Nat} (b : Byte) {m : Memory} (h : Memory.wf m = true) (hi : i < Config.fbDepth) :
    Memory.wf (fbInsert i b m) = true := risesFrom_fbInsert b h (Nat.zero_le i) hi

theorem fbStore_wf {i : Nat} (b : Byte) {s : State} (h : Memory.wf s.fb = true) (hi : i < Config.fbDepth) :
    Memory.wf (fbStore i b s).fb = true := fbInsert_wf b h hi

/-- The receiver's next index always lies below `FB_DEPTH`. -/
theorem fbNext_lt (s : State) : fbNext s < Config.fbDepth := s.rxCount.isLt

theorem startFrame_wf (b : Byte) {s : State} (h : Memory.wf s.fb = true) : Memory.wf (startFrame b s).fb = true :=
  fbInsert_wf b h (by decide)

theorem accumulate_fb (b : Byte) (s : State) : (accumulate b s).fb = fbInsert (fbNext s) b s.fb := by
  simp only [accumulate]; split <;> (try split) <;> rfl

theorem accumulate_wf (b : Byte) {s : State} (h : Memory.wf s.fb = true) : Memory.wf (accumulate b s).fb = true := by
  rw [accumulate_fb]; exact fbInsert_wf b h (fbNext_lt s)

theorem resetAll_wf (s : State) : Memory.wf (resetAll s).fb = true := rfl

/-- Equal contents are equal lists: in canonical form the listing decides the list. -/
theorem fbLookup_below {lo i : Nat} {m : Memory} (h : Memory.risesFrom lo m = true) (hi : i < lo) : fbLookup m i = none := by
  induction m generalizing lo with
  | nil => rfl
  | cons c m ih =>
    obtain ⟨a, x⟩ := c
    simp only [Memory.risesFrom, Bool.and_eq_true, decide_eq_true_eq] at h
    have hne : a ≠ i := by omega
    simpa [fbLookup, hne] using ih h.2 (by omega)

/-! ### The frame received so far -/

@[simp] theorem fbPrefix_zero (s : State) : fbPrefix s 0 = [] := rfl

theorem fbPrefix_succ (s : State) (n : Nat) : fbPrefix s (n + 1) = fbPrefix s n ++ [fbByte s n] := rfl

@[simp] theorem fbPrefix_length (s : State) (n : Nat) : (fbPrefix s n).length = n := by
  induction n with
  | zero => rfl
  | succ n ih => simp [fbPrefix_succ, ih]

/-- The first `n` bytes depend on those bytes alone. -/
theorem fbPrefix_congr {s t : State} {n : Nat} (h : ∀ i, i < n → fbByte t i = fbByte s i) : fbPrefix t n = fbPrefix s n := by
  induction n with
  | zero => rfl
  | succ n ih => rw [fbPrefix_succ, fbPrefix_succ, ih (fun i hi => h i (by omega)), h n (by omega)]

/-! ### Sums -/

@[simp] theorem sum8_nil : sum8 [] = 0 := rfl

@[simp] theorem sum8_cons (b : Byte) (bs : List Byte) : sum8 (b :: bs) = b + sum8 bs := rfl

/-- A counter below saturation counts. -/
theorem sat8_toNat (n : Nat) : (sat8 n).toNat = min n 255 := by
  simp only [sat8, Config.cntMax, BitVec.toNat_ofNat]; omega

end Sys2Proof.Machine
end

