-- ==== Sys2Proof/Laws/Ops.lean ====
section
/-! SUPPORT. What each shared operation can do, said once: a proof cites these and does not unfold the operation. -/

namespace Sys2Proof.Machine

/-! ### Errors, commands and the receiver -/

/-- All a command error does (R111). -/
theorem raiseCmdError_eq (c : CmdErr) (s : State) :
    raiseCmdError c s = { s with cmdErr := c, intPend := s.intPend ||| 0b1000 } := rfl

/-- All a receive error does (R112). -/
theorem raiseRxError_eq (e : RxErr) (s : State) :
    raiseRxError e s = { s with rxState := .error, rxErr := e, intPend := s.intPend ||| 0b0010 } := rfl

/-- All an arm does (42_rx_framer.md `arm_common`). -/
theorem armCommon_eq (len : Byte) (s : State) : armCommon len s =
    { s with actLen := len, actMode := s.syncMode, rxState := .hunt, rxErr := .none, rxCount := 0, rxSum := 0, rxSkip := 0
             rxDrop := false, recValid := false, recIdx := 0, recSec := 0, recMin := 0, recHour := 0, recDay := 0
             recMon := 0, recDow := 0, recYear := 0, recVal := 0, cmdErr := .ok } := rfl

/-- A timeout either raises INCOMPLETE, in HUNT and ACCUM, or does nothing (R83, R89). -/
theorem expire_cases (s : State) :
    ((s.rxState = .hunt ∨ s.rxState = .accum) ∧ expire s = raiseRxError .incomplete s) ∨
    (s.rxState ≠ .hunt ∧ s.rxState ≠ .accum ∧ expire s = s) := by
  unfold expire
  cases s.rxState <;> simp

/-- A byte in ACCUM is stored and counted, and then: the frame goes on, or it is DONE, or it ends in CHECKSUM (R88). -/
theorem accumulate_cases (b : Byte) (s : State) :
    let t := fbStore (fbNext s) b { s with rxCount := BitVec.ofNat 8 (s.rxCount.toNat + 1), rxSum := s.rxSum + b }
    (s.rxCount.toNat + 1 ≠ s.actLen.toNat ∧ accumulate b s = t) ∨
    (s.rxCount.toNat + 1 = s.actLen.toNat ∧ s.rxSum + b = 0 ∧
      accumulate b s = setPend pendRxDone { t with rxState := .done }) ∨
    (s.rxCount.toNat + 1 = s.actLen.toNat ∧ s.rxSum + b ≠ 0 ∧ accumulate b s = raiseRxError .checksum t) := by
  intro t
  have e : accumulate b s = if s.rxCount.toNat + 1 = s.actLen.toNat then
      (if s.rxSum + b = 0 then setPend pendRxDone { t with rxState := .done } else raiseRxError .checksum t) else t := rfl
  rw [e]
  split
  · rename_i h
    split
    · rename_i h0; exact .inr (.inl ⟨h, h0, rfl⟩)
    · rename_i h0; exact .inr (.inr ⟨h, h0, rfl⟩)
  · rename_i h; exact .inl ⟨h, rfl⟩

/-- The length table's entries are the legal indices', each at least `MIN_LEN` (R38, R81). -/
theorem lenRom_cases (a : Nibble) :
    (∃ len, lenRom a = some len ∧ a.toNat ≤ 8 ∧ Config.minLen ≤ len.toNat) ∨ (lenRom a = none ∧ 9 ≤ a.toNat) := by
  revert a; decide

/-- A register's sync-mode field has no mode exactly at 0b11 (R22). -/
theorem syncOfCode_code (m : SyncMode) : syncOfCode (syncCode m) = some m := by cases m <;> rfl

/-! ### The next event -/

/-- Which event is next at a clock edge, in the order of R117, and what is left of the edge. -/
theorem nextEvent_cases (c : PortCycle) (s : State) :
    (c.rst = true ∧ nextEvent c s = some (.reset, PortCycle.idle)) ∨
    (c.rst = false ∧ ∃ a, c.access = some a ∧ nextEvent c s = some (.access a, { c with access := none })) ∨
    (c.rst = false ∧ c.access = none ∧ c.txReady = true ∧ s.txBusy = true ∧
      nextEvent c s = some (.txTake, { c with txReady := false })) ∨
    (c.rst = false ∧ c.access = none ∧ (c.txReady && s.txBusy) = false ∧
      ∃ b, c.rxData = some b ∧ nextEvent c s = some (.rxByte b, { c with rxData := none })) ∨
    (c.rst = false ∧ c.access = none ∧ (c.txReady && s.txBusy) = false ∧ c.rxData = none ∧ c.rxTimeout = true ∧
      nextEvent c s = some (.rxTimeout, { c with rxTimeout := false })) ∨
    (c.rst = false ∧ c.access = none ∧ (c.txReady && s.txBusy) = false ∧ c.rxData = none ∧ c.rxTimeout = false ∧
      nextEvent c s = none) := by
  obtain ⟨rst, access, txReady, rxData, rxTimeout⟩ := c
  rcases rst with _ | _
  · rcases access with _ | a
    · rcases txReady with _ | _ <;> rcases hb : s.txBusy with _ | _ <;> rcases rxData with _ | b <;>
        rcases rxTimeout with _ | _ <;> simp [nextEvent, hb]
    · exact .inr (.inl ⟨rfl, a, rfl, rfl⟩)
  · exact .inl ⟨rfl, rfl⟩

/-- All a step can do: nothing without an edge, the end of an edge with no event left, or the next event's operation. -/
theorem step_cases (s : State) :
    (s.inputs = [] ∧ step s = .next s) ∨
    (∃ c rest, s.inputs = c :: rest ∧ nextEvent c s = none ∧ step s = .next { s with inputs := rest }) ∨
    (∃ c rest e left, s.inputs = c :: rest ∧ nextEvent c s = some (e, left) ∧
      step s = exec (decodeEvent s.rxState s.actMode e) { s with inputs := left :: rest }) := by
  cases h : s.inputs with
  | nil => exact .inl ⟨rfl, by simp [step, fetch, h]⟩
  | cons c rest =>
    cases hn : nextEvent c s with
    | none => exact .inr (.inl ⟨c, rest, rfl, hn, by simp [step, fetch, h, hn]⟩)
    | some p =>
      obtain ⟨e, left⟩ := p
      exact .inr (.inr ⟨c, rest, e, left, rfl, hn, by simp [step, fetch, h, hn]⟩)

/-- A stage of a cycle after one that answered a next state. -/
@[simp] theorem andThen_next (s : State) (f : State → Result) : andThen (.next s) f = f s := rfl

/-- A clock cycle with a host access and a received byte: the access, then the byte on the state the access left (R117). -/
theorem clockCycle_access_rxByte {a : Access} {b : Byte} {s u t : State} (ha : exec (decodeAccess a) s = .next u)
    (hb : exec (decodeRxByte u.rxState u.actMode b) u = .next t) :
    clockCycle { PortCycle.idle with access := some a, rxData := some b } s = .next t := by
  show andThen (andThen (andThen (exec (decodeAccess a) s) (stageTake _)) (stageRxByte _)) (stageTimeout _) = _
  rw [ha]
  show andThen (exec (decodeRxByte u.rxState u.actMode b) u) (stageTimeout _) = _
  rw [hb]; rfl

/-- A composition that answers a next state answered one at its first stage. -/
theorem andThen_eq_next {r : Result} {f : State → Result} {t : State} (h : andThen r f = .next t) :
    ∃ s, r = .next s ∧ f s = .next t := by
  cases r with
  | next s => exact ⟨s, rfl, h⟩
  | fault e => exact nomatch e
  | refused e => cases h

end Sys2Proof.Machine
end

