-- ==== Sys2Proof/Laws/Exec.lean ====
section
/-! SUPPORT. All that an operation can do when it answers a next state, said once: `Effect i s t` lists the outcomes with
their guards, and `effect_of_exec` says that there are no others. -/

namespace Sys2Proof.Machine

/-- The outcomes of each operation that answers a next state. -/
inductive Effect : Instr → State → State → Prop
  | nop (s) : Effect .nop s (commandOk s)
  | rxArm (s) (h : Config.minLen ≤ s.rxLen.toNat) : Effect .rxArm s (armCommon s.rxLen s)
  | rxArmBad (s) (h : s.rxLen.toNat < Config.minLen) : Effect .rxArm s (raiseCmdError .lenRange s)
  | rxArmOp (a len s) (h : lenRom a = some len) (hl : Config.minLen ≤ len.toNat) : Effect (.rxArmOp a) s (armCommon len s)
  | rxArmOpBad (a s) (h : lenRom a = none) : Effect (.rxArmOp a) s (raiseCmdError .badArg s)
  | rxClear (s) : Effect .rxClear s (commandOk (restartReceiver .idle s))
  | rxTimeoutCmd (s) (h : s.rxState = .hunt ∨ s.rxState = .accum) :
      Effect .rxTimeoutCmd s (raiseRxError .incomplete (commandOk s))
  | rxTimeoutCmdKept (s) (h : s.rxState ≠ .hunt) (h' : s.rxState ≠ .accum) : Effect .rxTimeoutCmd s (commandOk s)
  | txStart (s) (h : s.txOpen = false) (h' : s.txBusy = false) :
      Effect .txStart s (commandOk (emit Config.sync { s with txOpen := true, txSum := 0, txCnt := 0 }))
  | txStartSeq (s) (h : s.txOpen = true) : Effect .txStart s (raiseCmdError .txSeq s)
  | txStartOverrun (s) (h : s.txOpen = false) (h' : s.txBusy = true) : Effect .txStart s (raiseCmdError .txOverrun s)
  | txEnd (s) (h : s.txOpen = true) (h' : s.txBusy = false) :
      Effect .txEnd s (commandOk (emit (neg8 s.txSum) { s with txOpen := false }))
  | txEndSeq (s) (h : s.txOpen = false) : Effect .txEnd s (raiseCmdError .txSeq s)
  | txEndOverrun (s) (h : s.txOpen = true) (h' : s.txBusy = true) : Effect .txEnd s (raiseCmdError .txOverrun s)
  | txAbort (s) : Effect .txAbort s (commandOk (emptyHold { s with txOpen := false }))
  | ckClear (s) : Effect .ckClear s (commandOk { s with ckSum := 0, ckCnt := 0 })
  | decode (k s) (h : s.rxState = .done) (h' : slotInRange k s.actLen = true) :
      Effect (.decode k) s (commandOk (loadRecord k s))
  | decodeUnverified (k s) (h : s.rxState ≠ .done) : Effect (.decode k) s (raiseCmdError .unverified s)
  | decodeRange (k s) (h : s.rxState = .done) (h' : slotInRange k s.actLen = false) :
      Effect (.decode k) s (raiseCmdError .recRange s)
  | softReset (s) : Effect .softReset s (resetAll s)
  | reservedA (z a s) : Effect (.reservedA z a) s (raiseCmdError .badCmd s)
  | reservedB (z a s) : Effect (.reservedB z a) s (raiseCmdError .badCmd s)
  | reservedC (z a s) : Effect (.reservedC z a) s (raiseCmdError .badCmd s)
  | reservedD (z a s) : Effect (.reservedD z a) s (raiseCmdError .badCmd s)
  | reservedE (z a s) : Effect (.reservedE z a) s (raiseCmdError .badCmd s)
  | cmdNonzeroZ (z a op s) : Effect (.cmdNonzeroZ z a op) s (raiseCmdError .badCmd s)
  | wrCtrl (v m s) (h : syncOfCode (lowPair v) = some m) : Effect (.wrCtrl v) s { s with syncMode := m }
  | wrCtrlKept (v s) (h : syncOfCode (lowPair v) = none) : Effect (.wrCtrl v) s s
  | wrRxLen (v s) : Effect (.wrRxLen v) s { s with rxLen := lowByte v }
  | wrTxData (v s) (h : s.txOpen = true) (h' : s.txBusy = false) :
      Effect (.wrTxData v) s (commandOk (emit (lowByte v) s))
  | wrTxDataSeq (v s) (h : s.txOpen = false) : Effect (.wrTxData v) s (raiseCmdError .txSeq s)
  | wrTxDataOverrun (v s) (h : s.txOpen = true) (h' : s.txBusy = true) :
      Effect (.wrTxData v) s (raiseCmdError .txOverrun s)
  | wrCkData (v s) : Effect (.wrCkData v) s
      (commandOk { s with ckSum := s.ckSum + lowByte v, ckCnt := sat8 (s.ckCnt.toNat + 1) })
  | wrIntPend (v s) : Effect (.wrIntPend v) s (clearPend (lowNibble v) s)
  | wrIntEn (v s) : Effect (.wrIntEn v) s { s with intEn := lowNibble v }
  | wrIgnored (addr v s) : Effect (.wrIgnored addr v) s s
  | rdReg (addr s) : Effect (.rdReg addr) s (returnWord (readReg addr s) s)
  | rdCkInfo (s) : Effect .rdCkInfo s (returnWord (regCkInfo s) s)
  | rdFb (j s) : Effect (.rdFb j) s (returnWord (fbWord s j) s)
  | rxbyteDrop (b s) (h : s.rxState = .idle ∨ s.rxState = .done ∨ s.rxState = .error) :
      Effect (.rxbyteDrop b) s { s with rxDrop := true }
  | rxbyteHuntNone (b s) (h : s.rxState = .hunt) (hm : s.actMode = .none) : Effect (.rxbyteHuntNone b) s (startFrame b s)
  | rxbyteHuntStrict (s) (h : s.rxState = .hunt) (hm : s.actMode = .strict) :
      Effect (.rxbyteHuntStrict Config.sync) s (startFrame Config.sync s)
  | rxbyteHuntStrictBad (b s) (h : s.rxState = .hunt) (hm : s.actMode = .strict) (hb : b ≠ Config.sync) :
      Effect (.rxbyteHuntStrict b) s (raiseRxError .sync s)
  | rxbyteHuntHunt (s) (h : s.rxState = .hunt) (hm : s.actMode = .hunt) :
      Effect (.rxbyteHuntHunt Config.sync) s (startFrame Config.sync s)
  | rxbyteHuntHuntSkip (b s) (h : s.rxState = .hunt) (hm : s.actMode = .hunt) (hb : b ≠ Config.sync) :
      Effect (.rxbyteHuntHunt b) s { s with rxSkip := sat8 (s.rxSkip.toNat + 1) }
  | rxbyteAccum (b s) (h : s.rxState = .accum) : Effect (.rxbyteAccum b) s (accumulate b s)
  | txTake (s) (h : s.txBusy = true) :
      Effect .txTake s (setPend pendTxReady (emptyHold { s with txOut := s.txOut ++ [s.txHold] }))
  | rxTimeoutEvt (s) (h : s.rxState = .hunt ∨ s.rxState = .accum) : Effect .rxTimeoutEvt s (raiseRxError .incomplete s)
  | rxTimeoutEvtKept (s) (h : s.rxState ≠ .hunt) (h' : s.rxState ≠ .accum) : Effect .rxTimeoutEvt s s
  | reset (s) : Effect .reset s (resetAll s)

/-- Every next state is one of the listed outcomes. -/
theorem effect_of_exec {i : Instr} {s t : State} (h : exec i s = .next t) : Effect i s t := by
  cases i
  case rxArm =>
    simp only [exec, execRxArm] at h
    split at h <;> cases h
    · exact .rxArmBad s ‹_›
    · exact .rxArm s (Nat.le_of_not_lt ‹_›)
  case rxArmOp a =>
    rcases lenRom_cases a with ⟨len, hl, _, hm⟩ | ⟨hl, _⟩ <;> simp only [exec, execRxArmOp, hl] at h <;> cases h
    · exact .rxArmOp a len s hl hm
    · exact .rxArmOpBad a s hl
  case rxTimeoutCmd =>
    simp only [exec, execRxTimeoutCmd] at h
    rcases expire_cases (commandOk s) with ⟨hs, he⟩ | ⟨hs, hs', he⟩ <;> rw [he] at h <;> cases h
    · exact .rxTimeoutCmd s hs
    · exact .rxTimeoutCmdKept s hs hs'
  case rxTimeoutEvt =>
    simp only [exec, execRxTimeoutEvt] at h
    rcases expire_cases s with ⟨hs, he⟩ | ⟨hs, hs', he⟩ <;> rw [he] at h <;> cases h
    · exact .rxTimeoutEvt s hs
    · exact .rxTimeoutEvtKept s hs hs'
  case txStart =>
    cases ho : s.txOpen <;> cases hb : s.txBusy <;> simp [exec, execTxStart, ho, hb] at h <;> subst h
    · exact .txStart s ho hb
    · exact .txStartOverrun s ho hb
    · exact .txStartSeq s ho
    · exact .txStartSeq s ho
  case txEnd =>
    cases ho : s.txOpen <;> cases hb : s.txBusy <;> simp [exec, execTxEnd, ho, hb] at h <;> subst h
    · exact .txEndSeq s ho
    · exact .txEndSeq s ho
    · exact .txEnd s ho hb
    · exact .txEndOverrun s ho hb
  case wrTxData v =>
    cases ho : s.txOpen <;> cases hb : s.txBusy <;> simp [exec, execWrTxData, ho, hb] at h <;> subst h
    · exact .wrTxDataSeq v s ho
    · exact .wrTxDataSeq v s ho
    · exact .wrTxData v s ho hb
    · exact .wrTxDataOverrun v s ho hb
  case decode k =>
    simp only [exec, execDecode] at h
    split at h
    · cases h; exact .decodeUnverified k s ‹_›
    · rename_i hd
      have hd : s.rxState = .done := Decidable.not_not.mp hd
      cases hr : slotInRange k s.actLen <;> simp [hr] at h <;> subst h
      · exact .decodeRange k s hd hr
      · exact .decode k s hd hr
  case wrCtrl v =>
    simp only [exec, execWrCtrl] at h
    split at h <;> cases h
    · exact .wrCtrl v _ s ‹_›
    · exact .wrCtrlKept v s ‹_›
  case rxbyteDrop b =>
    simp only [exec, execRxbyteDrop] at h
    split at h <;> cases h
    rename_i hs
    exact .rxbyteDrop b s (by simpa [rowSelected, Instr.selectedBy, or_assoc] using hs)
  case rxbyteHuntNone b =>
    simp only [exec, execRxbyteHuntNone] at h
    split at h <;> cases h
    rename_i hs
    simp only [rowSelected, Instr.selectedBy, Bool.and_eq_true, decide_eq_true_eq] at hs
    exact .rxbyteHuntNone b s hs.1 hs.2
  case rxbyteHuntStrict b =>
    simp only [exec, execRxbyteHuntStrict] at h
    split at h <;> [skip; cases h]
    rename_i hs
    simp only [rowSelected, Instr.selectedBy, Bool.and_eq_true, decide_eq_true_eq] at hs
    split at h <;> cases h
    · rename_i hb; subst hb; exact .rxbyteHuntStrict s hs.1 hs.2
    · rename_i hb; exact .rxbyteHuntStrictBad b s hs.1 hs.2 hb
  case rxbyteHuntHunt b =>
    simp only [exec, execRxbyteHuntHunt] at h
    split at h <;> [skip; cases h]
    rename_i hs
    simp only [rowSelected, Instr.selectedBy, Bool.and_eq_true, decide_eq_true_eq] at hs
    split at h <;> cases h
    · rename_i hb; subst hb; exact .rxbyteHuntHunt s hs.1 hs.2
    · rename_i hb; exact .rxbyteHuntHuntSkip b s hs.1 hs.2 hb
  case rxbyteAccum b =>
    simp only [exec, execRxbyteAccum] at h
    split at h <;> cases h
    rename_i hs
    exact .rxbyteAccum b s (by simpa [rowSelected, Instr.selectedBy] using hs)
  case txTake =>
    simp only [exec, execTxTake] at h
    split at h <;> cases h
    exact .txTake s ‹_›
  all_goals (cases h; constructor)

/-- Every listed outcome is the operation's answer. -/
theorem exec_of_effect {i : Instr} {s t : State} (e : Effect i s t) : exec i s = .next t := by
  cases e
  case rxArm h => exact if_neg (Nat.not_lt.mpr h)
  case rxArmBad h => exact if_pos h
  case rxArmOp a len h hl => simp only [exec, execRxArmOp, h]
  case rxArmOpBad a h => simp only [exec, execRxArmOp, h]
  case rxTimeoutCmd h => rcases h with h | h <;> simp [exec, execRxTimeoutCmd, expire, h]
  case rxTimeoutCmdKept h h' =>
    rcases expire_cases (commandOk s) with ⟨hs, _⟩ | ⟨_, _, he⟩
    · exact absurd hs (not_or.mpr ⟨h, h'⟩)
    · exact congrArg Host.Outcome.next he
  case rxTimeoutEvt h => rcases h with h | h <;> simp [exec, execRxTimeoutEvt, expire, h]
  case rxTimeoutEvtKept h h' =>
    rcases expire_cases s with ⟨hs, _⟩ | ⟨_, _, he⟩
    · exact absurd hs (not_or.mpr ⟨h, h'⟩)
    · exact congrArg Host.Outcome.next he
  case txStart h h' => simp [exec, execTxStart, h, h']
  case txStartSeq h => simp [exec, execTxStart, h]
  case txStartOverrun h h' => simp [exec, execTxStart, h, h']
  case txEnd h h' => simp [exec, execTxEnd, h, h']
  case txEndSeq h => simp [exec, execTxEnd, h]
  case txEndOverrun h h' => simp [exec, execTxEnd, h, h']
  case wrTxData v h h' => simp [exec, execWrTxData, h, h']
  case wrTxDataSeq v h => simp [exec, execWrTxData, h]
  case wrTxDataOverrun v h h' => simp [exec, execWrTxData, h, h']
  case decode k h h' => simp [exec, execDecode, h, h']
  case decodeUnverified k h => exact if_pos h
  case decodeRange k h h' => simp [exec, execDecode, h, h']
  case wrCtrl v m h => simp only [exec, execWrCtrl, h]
  case wrCtrlKept v h => simp only [exec, execWrCtrl, h]
  case rxbyteDrop b h =>
    rcases h with h | h | h <;> simp [exec, execRxbyteDrop, rowSelected, Instr.selectedBy, h]
  case rxbyteHuntNone b h hm => simp [exec, execRxbyteHuntNone, rowSelected, Instr.selectedBy, h, hm]
  case rxbyteHuntStrict h hm => simp [exec, execRxbyteHuntStrict, rowSelected, Instr.selectedBy, h, hm]
  case rxbyteHuntStrictBad b h hm hb => simp [exec, execRxbyteHuntStrict, rowSelected, Instr.selectedBy, h, hm, hb]
  case rxbyteHuntHunt h hm => simp [exec, execRxbyteHuntHunt, rowSelected, Instr.selectedBy, h, hm]
  case rxbyteHuntHuntSkip b h hm hb => simp [exec, execRxbyteHuntHunt, rowSelected, Instr.selectedBy, h, hm, hb]
  case rxbyteAccum b h => simp [exec, execRxbyteAccum, rowSelected, Instr.selectedBy, h]
  case txTake h => exact if_pos h
  all_goals rfl

/-- An operation answers a next state wherever its row is selected, and TXTAKE wherever a byte is held. -/
theorem exec_answers {i : Instr} {s : State} (hs : i.selectedBy s.rxState s.actMode = true)
    (ht : i = .txTake → s.txBusy = true) : ∃ t, exec i s = .next t := by
  cases i
  case rxArm => simp only [exec, execRxArm]; split <;> exact ⟨_, rfl⟩
  case rxArmOp a => simp only [exec, execRxArmOp]; split <;> exact ⟨_, rfl⟩
  case txStart => simp only [exec, execTxStart]; split <;> (try split) <;> exact ⟨_, rfl⟩
  case txEnd => simp only [exec, execTxEnd]; split <;> (try split) <;> exact ⟨_, rfl⟩
  case wrTxData v => simp only [exec, execWrTxData]; split <;> (try split) <;> exact ⟨_, rfl⟩
  case decode k => simp only [exec, execDecode]; split <;> (try split) <;> exact ⟨_, rfl⟩
  case wrCtrl v => simp only [exec, execWrCtrl]; split <;> exact ⟨_, rfl⟩
  case rxbyteDrop b => exact ⟨_, if_pos hs⟩
  case rxbyteHuntNone b => exact ⟨_, if_pos hs⟩
  case rxbyteAccum b => exact ⟨_, if_pos hs⟩
  case rxbyteHuntStrict b =>
    have e : exec (.rxbyteHuntStrict b) s =
        if b = Config.sync then .next (startFrame b s) else .next (raiseRxError .sync s) := if_pos hs
    rw [e]; split <;> exact ⟨_, rfl⟩
  case rxbyteHuntHunt b =>
    have e : exec (.rxbyteHuntHunt b) s =
        if b = Config.sync then .next (startFrame b s) else .next { s with rxSkip := sat8 (s.rxSkip.toNat + 1) } := if_pos hs
    rw [e]; split <;> exact ⟨_, rfl⟩
  case txTake => exact ⟨_, if_pos (ht rfl)⟩
  all_goals exact ⟨_, rfl⟩

end Sys2Proof.Machine
end

