-- ==== Sys2Proof/Laws/PerInstr.lean ====
section
/-! SUPPORT. The statements about the syntax of one operation each, with one lemma per constructor of `Instr`. -/

namespace Sys2Proof.Laws

/-- The port event of a well-formed operation has the format the opcode table gives its row (30_encoding.md section 1). -/
def FormatOfEncoding.Statement (i : Instr) : Prop := i.wellFormed = true → eventFormat (encode i) = i.format

theorem FormatOfEncoding.nop : FormatOfEncoding.Statement Instr.nop := fun _ => rfl

theorem FormatOfEncoding.rxArm : FormatOfEncoding.Statement Instr.rxArm := fun _ => rfl

theorem FormatOfEncoding.rxArmOp (a : Nibble) : FormatOfEncoding.Statement (Instr.rxArmOp a) := fun _ => rfl

theorem FormatOfEncoding.rxClear : FormatOfEncoding.Statement Instr.rxClear := fun _ => rfl

theorem FormatOfEncoding.rxTimeoutCmd : FormatOfEncoding.Statement Instr.rxTimeoutCmd := fun _ => rfl

theorem FormatOfEncoding.txStart : FormatOfEncoding.Statement Instr.txStart := fun _ => rfl

theorem FormatOfEncoding.txEnd : FormatOfEncoding.Statement Instr.txEnd := fun _ => rfl

theorem FormatOfEncoding.txAbort : FormatOfEncoding.Statement Instr.txAbort := fun _ => rfl

theorem FormatOfEncoding.ckClear : FormatOfEncoding.Statement Instr.ckClear := fun _ => rfl

theorem FormatOfEncoding.decode (k : Nibble) : FormatOfEncoding.Statement (Instr.decode k) := fun _ => rfl

theorem FormatOfEncoding.softReset : FormatOfEncoding.Statement Instr.softReset := fun _ => rfl

theorem FormatOfEncoding.reservedA (z : BitVec 24) (a : Nibble) : FormatOfEncoding.Statement (Instr.reservedA z a) := fun _ => rfl

theorem FormatOfEncoding.reservedB (z : BitVec 24) (a : Nibble) : FormatOfEncoding.Statement (Instr.reservedB z a) := fun _ => rfl

theorem FormatOfEncoding.reservedC (z : BitVec 24) (a : Nibble) : FormatOfEncoding.Statement (Instr.reservedC z a) := fun _ => rfl

theorem FormatOfEncoding.reservedD (z : BitVec 24) (a : Nibble) : FormatOfEncoding.Statement (Instr.reservedD z a) := fun _ => rfl

theorem FormatOfEncoding.reservedE (z : BitVec 24) (a : Nibble) : FormatOfEncoding.Statement (Instr.reservedE z a) := fun _ => rfl

theorem FormatOfEncoding.cmdNonzeroZ (z : BitVec 24) (a : Nibble) (op : Nibble) : FormatOfEncoding.Statement (Instr.cmdNonzeroZ z a op) := fun _ => rfl

theorem FormatOfEncoding.wrCtrl (v : Word) : FormatOfEncoding.Statement (Instr.wrCtrl v) := fun _ => rfl

theorem FormatOfEncoding.wrRxLen (v : Word) : FormatOfEncoding.Statement (Instr.wrRxLen v) := fun _ => rfl

theorem FormatOfEncoding.wrTxData (v : Word) : FormatOfEncoding.Statement (Instr.wrTxData v) := fun _ => rfl

theorem FormatOfEncoding.wrCkData (v : Word) : FormatOfEncoding.Statement (Instr.wrCkData v) := fun _ => rfl

theorem FormatOfEncoding.wrIntPend (v : Word) : FormatOfEncoding.Statement (Instr.wrIntPend v) := fun _ => rfl

theorem FormatOfEncoding.wrIntEn (v : Word) : FormatOfEncoding.Statement (Instr.wrIntEn v) := fun _ => rfl

theorem FormatOfEncoding.wrIgnored (addr : WordAddr) (v : Word) : FormatOfEncoding.Statement (Instr.wrIgnored addr v) := by
  intro h
  have hne : addr ≠ addrCmd := fun he => by simp [he, addrCmd, Instr.wellFormed, writeHasRow] at h
  simp [encode, eventFormat, hne, Instr.format]

theorem FormatOfEncoding.rdReg (addr : WordAddr) : FormatOfEncoding.Statement (Instr.rdReg addr) := fun _ => rfl

theorem FormatOfEncoding.rdCkInfo : FormatOfEncoding.Statement Instr.rdCkInfo := fun _ => rfl

theorem FormatOfEncoding.rdFb (j : BitVec 6) : FormatOfEncoding.Statement (Instr.rdFb j) := fun _ => rfl

theorem FormatOfEncoding.rxbyteDrop (b : Byte) : FormatOfEncoding.Statement (Instr.rxbyteDrop b) := fun _ => rfl

theorem FormatOfEncoding.rxbyteHuntNone (b : Byte) : FormatOfEncoding.Statement (Instr.rxbyteHuntNone b) := fun _ => rfl

theorem FormatOfEncoding.rxbyteHuntStrict (b : Byte) : FormatOfEncoding.Statement (Instr.rxbyteHuntStrict b) := fun _ => rfl

theorem FormatOfEncoding.rxbyteHuntHunt (b : Byte) : FormatOfEncoding.Statement (Instr.rxbyteHuntHunt b) := fun _ => rfl

theorem FormatOfEncoding.rxbyteAccum (b : Byte) : FormatOfEncoding.Statement (Instr.rxbyteAccum b) := fun _ => rfl

theorem FormatOfEncoding.txTake : FormatOfEncoding.Statement Instr.txTake := fun _ => rfl

theorem FormatOfEncoding.rxTimeoutEvt : FormatOfEncoding.Statement Instr.rxTimeoutEvt := fun _ => rfl

theorem FormatOfEncoding.reset : FormatOfEncoding.Statement Instr.reset := fun _ => rfl

end Sys2Proof.Laws
end

