-- ==== Sys2Proof/Tests/Slice0.lean ====
section
/-! SUPPORT. Tests: ill-formed terms that the checks refuse, words written out from the spec's encodings, one step of each
operation with results from 95_test_vectors.md or by hand from the rule, and a state that meets the hypotheses of each
statement. -/

namespace Sys2Proof.Tests

open Sys2Proof Sys2Proof.Machine

/-! ### Helpers -/

/-- A register read after one operation, or `none` where the operation stops. -/
def readAfter (addr : WordAddr) : Result → Option Word
  | .next t => some (busRead addr t)
  | .fault _ => none
  | .refused _ => none

/-- Two registers after one operation. -/
def bothAfter (a b : WordAddr) (r : Result) : Option (Word × Word) :=
  (readAfter a r).bind fun v => (readAfter b r).map fun w => (v, w)

/-- The bytes the line took. -/
def takenAfter : Result → List Byte
  | .next t => t.txOut
  | .fault _ => []
  | .refused _ => []

/-- The words the host read. -/
def wordsAfter : Result → List Word
  | .next t => t.rdOut
  | .fault _ => []
  | .refused _ => []

/-- A receiver armed for a 7-byte frame. -/
def hunting (m : SyncMode) : State := { State.reset with rxState := .hunt, actMode := m, actLen := 7 }

/-- A receiver that has `n` bytes of sum `sum` of a 7-byte frame. -/
def accumulating (n sum : Byte) : State :=
  { State.reset with rxState := .accum, actLen := 7, rxCount := n, rxSum := sum }

/-- An open frame: the hold register is busy with `0x55`, or empty. -/
def sending (busy : Bool) : State :=
  { State.reset with txOpen := true, txBusy := busy, txHold := if busy then 0x55 else 0, txSum := 0x55, txCnt := 1 }

/-- The frame of 95_test_vectors.md W4: header, the record with the borrowed minute, and the checksum. -/
def recordFrame : Memory :=
  [(0, 0x55), (1, 0xFF), (2, 0x00), (3, 0x01), (4, 0x09), (5, 0x00), (6, 0x1E), (7, 0x29), (8, 0x43), (9, 0x37)]
    ++ [(10, 0x07), (11, 0xE7), (12, 0x00), (13, 0x00), (14, 0x48), (15, 0x41), (16, 0x6A)]

/-- A verified 17-byte frame with one record. -/
def verified : State :=
  { State.reset with rxState := .done, actLen := 17, rxCount := 17, fb := recordFrame }

/-! ### Well-formedness: one ill-formed term for each check -/

theorem test_wf_refuses_legal_word_as_malformed : (Instr.cmdNonzeroZ 0 0x0 0x0).wellFormed = false := by decide
theorem test_wf_refuses_reserved_word_as_malformed : (Instr.cmdNonzeroZ 1 0x0 0xA).wellFormed = false := by decide
theorem test_wf_refuses_index_as_malformed : (Instr.cmdNonzeroZ 0 0xF 0x2).wellFormed = false := by decide
theorem test_wf_refuses_named_write_as_ignored : (Instr.wrIgnored 0x0A 0).wellFormed = false := by decide
theorem test_wf_refuses_ck_info_as_register : (Instr.rdReg 0x08).wellFormed = false := by decide
theorem test_wf_refuses_fb_as_register : (Instr.rdReg 0x40).wellFormed = false := by decide
theorem test_wf_accepts_boundaries : (Instr.cmdNonzeroZ 0 0x1 0x0).wellFormed = true ∧
    (Instr.wrIgnored 0x0B 0).wellFormed = true ∧ (Instr.rdReg 0x3F).wellFormed = true := by decide

/-! ### Decoding: words written out from 30_encoding.md R56 to R62 and 20_memory.md R42 -/

theorem test_decode_nop : decodeAccess (.write 0x01 0b00000000000000000000000000000000) = .nop := by decide
theorem test_decode_rxArm : decodeAccess (.write 0x01 0b00000000000000000000000000000001) = .rxArm := by decide
theorem test_decode_rxArmOp : decodeAccess (.write 0x01 0b00000000000000000000000010000010) = .rxArmOp 8 := by decide
theorem test_decode_rxClear : decodeAccess (.write 0x01 0b00000000000000000000000000000011) = .rxClear := by decide
theorem test_decode_rxTimeout : decodeAccess (.write 0x01 0b00000000000000000000000000000100) = .rxTimeoutCmd := by decide
theorem test_decode_txStart : decodeAccess (.write 0x01 0b00000000000000000000000000000101) = .txStart := by decide
theorem test_decode_txEnd : decodeAccess (.write 0x01 0b00000000000000000000000000000110) = .txEnd := by decide
theorem test_decode_txAbort : decodeAccess (.write 0x01 0b00000000000000000000000000000111) = .txAbort := by decide
theorem test_decode_ckClear : decodeAccess (.write 0x01 0b00000000000000000000000000001000) = .ckClear := by decide
theorem test_decode_decode : decodeAccess (.write 0x01 0b00000000000000000000000011011001) = .decode 13 := by decide
theorem test_decode_softReset : decodeAccess (.write 0x01 0b00000000000000000000000011111111) = .softReset := by decide
theorem test_decode_reserved :
    decodeAccess (.write 0x01 0x0000000A) = .reservedA 0 0 ∧ decodeAccess (.write 0x01 0x0000001B) = .reservedB 0 1 ∧
    decodeAccess (.write 0x01 0x0000010C) = .reservedC 1 0 ∧ decodeAccess (.write 0x01 0xFFFFFFFD) = .reservedD 0xFFFFFF 0xF ∧
    decodeAccess (.write 0x01 0x8000002E) = .reservedE 0x800000 2 := by decide
theorem test_decode_malformed :
    decodeAccess (.write 0x01 0x00000100) = .cmdNonzeroZ 1 0 0 ∧ decodeAccess (.write 0x01 0x00000018) = .cmdNonzeroZ 0 1 8 ∧
    decodeAccess (.write 0x01 0x0000000F) = .cmdNonzeroZ 0 0 0xF ∧ decodeAccess (.write 0x01 0x000001F9) = .cmdNonzeroZ 1 0xF 9 := by
  decide
theorem test_decode_register_writes :
    decodeAccess (.write 0x00 0x2) = .wrCtrl 0x2 ∧ decodeAccess (.write 0x03 0x193) = .wrRxLen 0x193 ∧
    decodeAccess (.write 0x05 0xFF) = .wrTxData 0xFF ∧ decodeAccess (.write 0x07 0x120) = .wrCkData 0x120 ∧
    decodeAccess (.write 0x09 0xF) = .wrIntPend 0xF ∧ decodeAccess (.write 0x0A 0x1) = .wrIntEn 0x1 := by decide
theorem test_decode_ignored_writes :
    decodeAccess (.write 0x02 1) = .wrIgnored 0x02 1 ∧ decodeAccess (.write 0x0F 1) = .wrIgnored 0x0F 1 ∧
    decodeAccess (.write 0x7F 1) = .wrIgnored 0x7F 1 := by decide
theorem test_decode_reads :
    decodeAccess (.read 0x00) = .rdReg 0x00 ∧ decodeAccess (.read 0x0E) = .rdReg 0x0E ∧ decodeAccess (.read 0x3F) = .rdReg 0x3F ∧
    decodeAccess (.read 0x08) = .rdCkInfo ∧ decodeAccess (.read 0x40) = .rdFb 0 ∧ decodeAccess (.read 0x7F) = .rdFb 63 := by decide
theorem test_decode_received_byte :
    decodeRxByte .idle .hunt 0x55 = .rxbyteDrop 0x55 ∧ decodeRxByte .done .none 1 = .rxbyteDrop 1 ∧
    decodeRxByte .error .strict 2 = .rxbyteDrop 2 ∧ decodeRxByte .hunt .none 3 = .rxbyteHuntNone 3 ∧
    decodeRxByte .hunt .strict 4 = .rxbyteHuntStrict 4 ∧ decodeRxByte .hunt .hunt 5 = .rxbyteHuntHunt 5 ∧
    decodeRxByte .accum .none 6 = .rxbyteAccum 6 := by decide
theorem test_decode_port_events : decodeEvent .idle .none .txTake = .txTake ∧
    decodeEvent .hunt .none .rxTimeout = .rxTimeoutEvt ∧ decodeEvent .done .hunt .reset = .reset := by decide

/-! ### The opcode table's words -/

theorem test_table_command_row : decodeTableWord 32 0x000000D9 = some (.decode 13) := by decide
theorem test_table_write_row : decodeTableWord 16 0x01C = some (.wrCkData 0) := by decide
theorem test_table_ignored_row : decodeTableWord 16 0x008 = some (.wrIgnored 0x02 0) := by decide
theorem test_table_read_rows : decodeTableWord 16 0x020 = some .rdCkInfo ∧ decodeTableWord 16 0x104 = some (.rdFb 1) := by decide
theorem test_fetch_word_is_the_next_operation :
    step (State.reset.withFetchWord 32 0x5) = exec .txStart { State.reset with inputs := [PortCycle.idle] } := by rfl

/-! ### One step of each operation -/

/-- V-CTL-3. -/
theorem test_nop : bothAfter 0x02 0x09 (exec .nop { State.reset with cmdErr := .txSeq, intPend := 8 }) = some (0x00001000, 8) := by
  decide
/-- V-RX-1. -/
theorem test_rxArm : bothAfter 0x02 0x04 (exec .rxArm { State.reset with rxLen := 11 }) = some (0x00001001, 0x00000B00) := by decide
/-- V-RX-3. -/
theorem test_rxArm_below_minimum : bothAfter 0x02 0x09 (exec .rxArm { State.reset with rxLen := 6 }) = some (0x00031000, 8) := by
  decide
/-- V-RX-5.8. -/
theorem test_rxArmOp : bothAfter 0x04 0x03 (exec (.rxArmOp 8) State.reset) = some (0x00009300, 0) := by decide
/-- V-RX-6. -/
theorem test_rxArmOp_bad_index : readAfter 0x02 (exec (.rxArmOp 9) State.reset) = some 0x00021000 := by decide
/-- V-RX-23. -/
theorem test_rxClear : bothAfter 0x02 0x04 (exec .rxClear
    { State.reset with rxState := .error, rxErr := .checksum, actLen := 11, rxCount := 11, rxSum := 0xFF }) =
    some (0x00001000, 0x00000B00) := by decide
/-- V-RX-16. -/
theorem test_rxTimeout_command : bothAfter 0x02 0x04 (exec .rxTimeoutCmd { accumulating 6 0x5E with actLen := 0x93 }) =
    some (0x00001024, 0x005E9306) := by decide
/-- V-TX-1. -/
theorem test_txStart : bothAfter 0x06 0x02 (exec .txStart State.reset) = some (0x00550155, 0x00001300) := by decide
/-- V-TX-11. -/
theorem test_txStart_held : readAfter 0x02 (exec .txStart { State.reset with txBusy := true, txHold := 0xAB }) = some 0x00051200 := by
  decide
/-- V-TX-4. -/
theorem test_txEnd : bothAfter 0x06 0x02 (exec .txEnd { sending false with txSum := 0x57, txCnt := 5 }) =
    some (0x00A90600, 0x00001200) := by decide
/-- V-TX-9. -/
theorem test_txEnd_unopened : bothAfter 0x02 0x06 (exec .txEnd State.reset) = some (0x00041000, 0) := by decide
/-- V-TX-12. -/
theorem test_txAbort : bothAfter 0x02 0x06 (exec .txAbort { sending true with txHold := 2, txSum := 0x57, txCnt := 2 }) =
    some (0x00001000, 0x00000257) := by decide
/-- V-CK-6. -/
theorem test_ckClear : readAfter 0x08 (exec .ckClear { State.reset with ckSum := 0x57, ckCnt := 5 }) = some 0x00010000 := by decide
/-- 95_test_vectors.md W4: the minute's bits come from two bytes. -/
theorem test_decode_record : bothAfter 0x0B 0x0C (exec (.decode 0) verified) = some (0x03050A1E, 0x07E70706) ∧
    bothAfter 0x0D 0x02 (exec (.decode 0) verified) = some (0x41480000, 0x00001403) := by decide
/-- V-DEC-2 and V-DEC-5 on short frames: out of range, and not verified. -/
theorem test_decode_errors : readAfter 0x02 (exec (.decode 1) verified) = some 0x00071003 ∧
    readAfter 0x02 (exec (.decode 0) State.reset) = some 0x00061000 := by decide
/-- V-CTL-5. -/
theorem test_softReset : bothAfter 0x02 0x0A (exec .softReset { sending true with syncMode := .hunt, intEn := 0xF }) =
    some (0x00001000, 0) := by decide
/-- V-CTL-6.A. -/
theorem test_reservedA : bothAfter 0x02 0x09 (exec (.reservedA 0 0) State.reset) = some (0x00011000, 8) := by decide
/-- V-CTL-6.B. -/
theorem test_reservedB : bothAfter 0x02 0x09 (exec (.reservedB 0 0) State.reset) = some (0x00011000, 8) := by decide
/-- V-CTL-6.C. -/
theorem test_reservedC : bothAfter 0x02 0x09 (exec (.reservedC 0 0) State.reset) = some (0x00011000, 8) := by decide
/-- V-CTL-6.D. -/
theorem test_reservedD : bothAfter 0x02 0x09 (exec (.reservedD 0 0) State.reset) = some (0x00011000, 8) := by decide
/-- V-CTL-6.E. -/
theorem test_reservedE : bothAfter 0x02 0x09 (exec (.reservedE 0 0) State.reset) = some (0x00011000, 8) := by decide
/-- V-CTL-6.100. -/
theorem test_cmdNonzeroZ : bothAfter 0x02 0x09 (exec (.cmdNonzeroZ 1 0 0) State.reset) = some (0x00011000, 8) := by decide
/-- R22 and V-RX-27: the code 2 is HUNT, the code 3 is ignored. -/
theorem test_wrCtrl : readAfter 0x00 (exec (.wrCtrl 2) State.reset) = some 2 ∧
    readAfter 0x00 (exec (.wrCtrl 3) State.reset) = some 1 := by decide
/-- V-CTL-12. -/
theorem test_wrRxLen : readAfter 0x03 (exec (.wrRxLen 0x193) State.reset) = some 0x93 := by decide
/-- V-TX-3. -/
theorem test_wrTxData : readAfter 0x06 (exec (.wrTxData 0xFF) (sending false)) = some 0x00FF0254 := by decide
/-- V-TX-7 and V-TX-8. -/
theorem test_wrTxData_errors : bothAfter 0x02 0x06 (exec (.wrTxData 0x12) (sending true)) = some (0x00051300, 0x00550155) ∧
    bothAfter 0x02 0x06 (exec (.wrTxData 0x12) State.reset) = some (0x00041000, 0) := by decide
/-- V-CK-5: 0xF0 and 0x20 wrap to 0x10. -/
theorem test_wrCkData : readAfter 0x08 (exec (.wrCkData 0x120) { State.reset with ckSum := 0xF0, ckCnt := 3 }) = some 0x0400F010 := by
  decide
/-- V-CK-7: the count stops at 255. -/
theorem test_wrCkData_saturates : readAfter 0x08 (exec (.wrCkData 1) { State.reset with ckSum := 0xFF, ckCnt := 255 }) =
    some 0xFF010000 := by decide
/-- V-CTL-10. -/
theorem test_wrIntPend : readAfter 0x09 (exec (.wrIntPend 4) { State.reset with intPend := 5 }) = some 1 := by decide
/-- V-CTL-15. -/
theorem test_wrIntEn : readAfter 0x0A (exec (.wrIntEn 0xFF) State.reset) = some 0xF := by decide
/-- V-CK-9. -/
theorem test_wrIgnored : readAfter 0x08 (exec (.wrIgnored 0x08 0xFFFFFFFF) { State.reset with ckSum := 0x10, ckCnt := 1 }) =
    some 0x0100F010 := by decide
/-- V-CTL-1 and V-CTL-13. -/
theorem test_rdReg : wordsAfter (exec (.rdReg 0x0E) State.reset) = [0x4D464301] ∧
    wordsAfter (exec (.rdReg 0x0F) State.reset) = [0] := by decide
/-- V-CK-1. -/
theorem test_rdCkInfo : wordsAfter (exec .rdCkInfo State.reset) = [0x00010000] := by decide
/-- R43 on the frame of W4: word 3 is bytes 12 to 15, and word 4 has byte 16 alone. -/
theorem test_rdFb : wordsAfter (exec (.rdFb 3) verified) = [0x41480000] ∧
    wordsAfter (exec (.rdFb 4) verified) = [0x0000006A] := by decide
/-- V-RX-19. -/
theorem test_rxbyteDrop : bothAfter 0x02 0x04 (exec (.rxbyteDrop 0x55) State.reset) = some (0x00001800, 0) := by decide
/-- V-RX-11. -/
theorem test_rxbyteHuntNone : bothAfter 0x04 0x40 (exec (.rxbyteHuntNone 0x12) (hunting .none)) = some (0x00120701, 0x12) := by decide
/-- V-RX-9. -/
theorem test_rxbyteHuntStrict : bothAfter 0x02 0x04 (exec (.rxbyteHuntStrict 0x54) (hunting .strict)) =
    some (0x00001034, 0x00000700) := by decide
/-- V-RX-22, its first byte. -/
theorem test_rxbyteHuntStrict_sync : bothAfter 0x02 0x04 (exec (.rxbyteHuntStrict 0x55) (hunting .strict)) =
    some (0x00001002, 0x00550701) := by decide
/-- V-RX-15: the skip count stops at 255. -/
theorem test_rxbyteHuntHunt : bothAfter 0x04 0x02 (exec (.rxbyteHuntHunt 0) { hunting .hunt with rxSkip := 255 }) =
    some (0xFF000700, 0x00002001) := by decide
/-- V-RX-13, its last byte. -/
theorem test_rxbyteHuntHunt_sync : bothAfter 0x04 0x02 (exec (.rxbyteHuntHunt 0x55) { hunting .hunt with rxSkip := 2 }) =
    some (0x02550701, 0x00002002) := by decide
/-- V-RX-20, the acknowledgement's last byte: the sum is 0. -/
theorem test_rxbyteAccum_done : bothAfter 0x02 0x09 (exec (.rxbyteAccum 0xA6) (accumulating 6 0x5A)) = some (0x00001003, 1) := by
  decide
/-- V-RX-8 with the acknowledgement: one less than the checksum. -/
theorem test_rxbyteAccum_checksum : bothAfter 0x02 0x04 (exec (.rxbyteAccum 0xA5) (accumulating 6 0x5A)) =
    some (0x00001014, 0x00FF0707) := by decide
/-- V-TX-2. -/
theorem test_txTake : takenAfter (exec .txTake (sending true)) = [0x55] ∧
    bothAfter 0x02 0x06 (exec .txTake (sending true)) = some (0x00001100, 0x00000155) := by decide
/-- V-RX-17 and V-RX-18: a timeout in HUNT, and one after DONE. -/
theorem test_rxTimeout_event : bothAfter 0x02 0x09 (exec .rxTimeoutEvt (hunting .strict)) = some (0x00001024, 2) ∧
    bothAfter 0x02 0x09 (exec .rxTimeoutEvt verified) = some (0x00001003, 0) := by decide
/-- R125: STATUS and INT_PEND after the reset event. -/
theorem test_reset : bothAfter 0x02 0x09 (exec .reset { sending true with intPend := 0xF, cmdErr := .badArg }) =
    some (0x00001000, 0) := by decide

/-! ### One clock cycle (V-ORD-4, V-ORD-5) -/

theorem test_cycle_write_before_take :
    takenAfter (clockCycle { PortCycle.idle with access := some (.write 0x05 0x11), txReady := true } (sending true)) = [0x55] ∧
    readAfter 0x02 (clockCycle { PortCycle.idle with access := some (.write 0x05 0x11), txReady := true } (sending true)) =
      some 0x00051100 := by decide
theorem test_cycle_abort_before_take :
    takenAfter (clockCycle { PortCycle.idle with access := some (.write 0x01 0x7), txReady := true } (sending true)) = [] ∧
    readAfter 0x02 (clockCycle { PortCycle.idle with access := some (.write 0x01 0x7), txReady := true } (sending true)) =
      some 0x00001000 := by decide

/-! ### States and operands that meet the statements' hypotheses -/

/-- The receiver right after RX_ARM_OP 4: the state every arm leaves. -/
def armed : State := armCommon 7 State.reset

theorem test_armed_meets_the_invariant : StateInv armed where
  memory := rfl
  count := rfl
  error := by simp [errorFits, armed, armCommon, commandOk, restartReceiver, clearRecord]
  length := .inr (by decide)
  sum := ⟨rfl, nofun, nofun⟩
  written := fun i hi => absurd hi (Nat.not_lt_zero i)
  sync := fun _ h => absurd rfl h
  skip := fun _ => rfl
  hold := fun _ => rfl
  record := ⟨nofun, fun _ => rfl⟩

theorem test_witness_EveryOperationDecodesFromItsEncoding :
    (Instr.cmdNonzeroZ 1 0xF 9).wellFormed = true ∧ (Instr.cmdNonzeroZ 1 0xF 9).selectedBy .idle .none = true ∧
    (Instr.wrIgnored 0x7F 1).wellFormed = true ∧ (Instr.wrIgnored 0x7F 1).selectedBy .idle .none = true ∧
    (Instr.rdReg 0x3F).wellFormed = true ∧ (Instr.rdReg 0x3F).selectedBy .done .none = true ∧
    (Instr.rxbyteHuntHunt 0).wellFormed = true ∧ (Instr.rxbyteHuntHunt 0).selectedBy .hunt .hunt = true := by decide
theorem test_witness_EveryEventIsExactlyOneOperation :
    (Instr.rxbyteAccum 7).wellFormed = true ∧ (Instr.rxbyteAccum 7).selectedBy .accum .none = true ∧
    encode (.rxbyteAccum 7) = .rxByte 7 := by decide
theorem test_witness_ReservedAndMalformedCommandWordsOnlyReport :
    (0x00000100 : Word).toNat / 256 ≠ 0 ∧ (0x0000000A : Word).toNat % 16 = 0xA ∧ (0x0000000E : Word).toNat % 16 = 0xE ∧
    ((0x00000018 : Word).toNat % 16 ∈ [0x0, 0x1, 0x3, 0x4, 0x5, 0x6, 0x7, 0x8] ∧ (0x00000018 : Word).toNat / 16 % 16 ≠ 0) ∧
    ((0x000000EF : Word).toNat % 16 = 0xF ∧ (0x000000EF : Word).toNat / 16 % 16 ≠ 0xF) ∧
    ((0x00000092 : Word).toNat / 256 = 0 ∧ (0x00000092 : Word).toNat % 16 = 0x2 ∧ 9 ≤ (0x00000092 : Word).toNat / 16 % 16) ∧
    ((0x000000F2 : Word).toNat / 256 = 0 ∧ (0x000000F2 : Word).toNat % 16 = 0x2 ∧ 9 ≤ (0x000000F2 : Word).toNat / 16 % 16) := by
  decide
theorem test_witness_CommandWritesSucceedOrOnlyReport : Instr.txStart.format = .cmd ∧ Instr.txStart ≠ .softReset ∧
    (∃ v, Instr.wrTxData 1 = .wrTxData v) ∧ (∃ v, Instr.wrCkData 1 = .wrCkData v) := ⟨rfl, nofun, ⟨1, rfl⟩, ⟨1, rfl⟩⟩
theorem test_witness_SumIsIncrementalAndIgnoresOrder : ([1, 2] : List Byte).Perm [2, 1] := List.Perm.swap _ _ _
theorem test_witness_OneChangedByteIsDetected : sum8 ([] ++ (1 : Byte) :: [0xFF]) = 0 ∧ (1 : Byte) ≠ 2 := by decide
/-- For each statement with `onlyCmdWord`, and for RX_ARM_OP and DECODE: other words of the same opcode. -/
theorem test_witness_other_words_of_the_opcode :
    ((0x00000105 : Word).toNat % 16 = (0x00000005 : Word).toNat % 16 ∧ (0x00000105 : Word) ≠ 0x00000005) ∧
    (0x0000010F : Word).toNat % 16 = (0x000000FF : Word).toNat % 16 ∧ (0x00000010 : Word).toNat % 16 = (0 : Word).toNat % 16 ∧
    ((0x00000102 : Word).toNat % 16 = 2 ∧ 256 ≤ (0x00000102 : Word).toNat) ∧
    ((0xFFFFFFF9 : Word).toNat % 16 = 9 ∧ 256 ≤ (0xFFFFFFF9 : Word).toNat) :=
  ⟨by decide, by decide, by decide, ⟨by decide, Nat.le_of_ble_eq_true rfl⟩, ⟨by decide, Nat.le_of_ble_eq_true rfl⟩⟩
theorem test_witness_TxStartOpensFrameWithSyncByte : (sending false).txOpen = true ∧
    ({ State.reset with txBusy := true } : State).txOpen = false ∧ ({ State.reset with txBusy := true } : State).txBusy = true ∧
    State.reset.txOpen = false ∧ State.reset.txBusy = false := by decide
theorem test_witness_TxDataAppendsHostByte : State.reset.txOpen = false ∧
    (sending true).txOpen = true ∧ (sending true).txBusy = true ∧ (sending false).txOpen = true ∧ (sending false).txBusy = false := by
  decide
theorem test_witness_TxEndAppendsChecksum : State.reset.txOpen = false ∧
    (sending true).txOpen = true ∧ (sending true).txBusy = true ∧ (sending false).txOpen = true ∧ (sending false).txBusy = false := by
  decide
theorem test_witness_TxTakeHandsByteToTheLine : (sending true).txBusy = true := by decide
theorem test_witness_BytesLeaveOnlyByTake : ∃ t, exec .txTake (sending true) = .next t ∧ t.txOut ≠ (sending true).txOut :=
  ⟨_, rfl, by decide⟩
theorem test_witness_SentFrameIsSyncHostBytesChecksum :
    State.reset.txOpen = false ∧ State.reset.txBusy = false ∧ State.reset.inputs = [] := by decide
theorem test_witness_RxArmLatchesLengthAndMode : 7 ≤ (7 : Byte).toNat ∧ 7 ≤ (255 : Byte).toNat ∧ (6 : Byte).toNat < 7 ∧
    ({ State.reset with rxLen := 7 } : State).rxLen = 7 := by decide
theorem test_witness_RxArmOpLatchesTableLength :
    ([11, 15, 7, 7, 7, 10, 7, 11, 147] : List Byte)[(0 : Nibble).toNat]? = some 11 ∧
    ([11, 15, 7, 7, 7, 10, 7, 11, 147] : List Byte)[(8 : Nibble).toNat]? = some 147 ∧
    9 ≤ (9 : Nibble).toNat ∧ 9 ≤ (15 : Nibble).toNat := by decide
theorem test_witness_TimeoutEndsHuntAndAccumOnly : (hunting .none).rxState = .hunt ∧ (accumulating 1 0).rxState = .accum ∧
    State.reset.rxState = .idle ∧ verified.rxState = .done ∧ ({ State.reset with rxState := .error } : State).rxState = .error := by
  decide
theorem test_witness_ByteOutsideFrameIsDropped : State.reset.rxState = .idle ∧ verified.rxState = .done ∧
    ({ State.reset with rxState := .error } : State).rxState = .error := by decide
theorem test_witness_FirstByteFollowsSyncMode :
    (hunting .none).rxState = .hunt ∧ (hunting .none).actMode = .none ∧ (hunting .strict).rxState = .hunt ∧
    (hunting .strict).actMode = .strict ∧ (hunting .hunt).rxState = .hunt ∧ (hunting .hunt).actMode = .hunt ∧
    (0x54 : Byte) ≠ 0x55 := by decide
theorem test_witness_AccumulatedByteIsStoredAndValidated :
    (accumulating 1 0).rxState = .accum ∧ (accumulating 5 0).rxCount.toNat + 1 ≠ (accumulating 5 0).actLen.toNat ∧
    (accumulating 6 0x5A).rxCount.toNat + 1 = (accumulating 6 0x5A).actLen.toNat ∧
    (accumulating 6 0x5A).rxSum + 0xA6 = 0 ∧ (accumulating 6 0x5A).rxSum + 0xA5 ≠ 0 ∧
    ({ accumulating 254 0 with actLen := 255 } : State).rxState = .accum ∧ (254 : Byte).toNat + 1 = (255 : Byte).toNat ∧
    (accumulating 255 0).rxState = .accum ∧ (accumulating 255 0).rxCount.toNat + 1 ≠ (accumulating 255 0).actLen.toNat := by decide
theorem test_witness_ReceivedFrameEndsInDoneOrChecksumError :
    armed.rxState = .hunt ∧ armed.inputs = [] ∧ ([0x55, 0xFF, 0, 1, 5, 0, 0xA6] : List Byte).length = armed.actLen.toNat ∧
    ([0x55, 0xFF, 0, 1, 5, 0, 0xA6] : List Byte).head? = some 0x55 ∧ sum8 [0x55, 0xFF, 0, 1, 5, 0, 0xA6] = 0 ∧
    sum8 [0x55, 0xFF, 0, 1, 5, 0, 0xA5] ≠ 0 := by decide
theorem test_witness_DoneIsReachedOnlyByACompletedValidFrame :
    ∃ t, exec (.rxbyteAccum 0xA6) (accumulating 6 0x5A) = .next t ∧ (accumulating 6 0x5A).rxState ≠ .done ∧ t.rxState = .done :=
  ⟨_, rfl, by decide, by decide⟩
theorem test_witness_LatchedConfigurationIsReadUntilNextArm :
    (∃ t, exec (.rxArmOp 8) State.reset = .next t ∧ t.actLen ≠ State.reset.actLen) ∧
    (Instr.rxbyteHuntNone 1).format = .port ∧ ∃ t, exec (.rxbyteHuntNone 1) (hunting .none) = .next t :=
  ⟨⟨_, rfl, by decide⟩, rfl, ⟨_, rfl⟩⟩
theorem test_witness_DecodeLoadsVerifiedRecordSlot : State.reset.rxState ≠ .done ∧ verified.rxState = .done ∧
    10 * (0 : Nibble).toNat + 17 ≤ verified.actLen.toNat ∧ verified.actLen.toNat < 10 * (1 : Nibble).toNat + 17 ∧
    10 * (15 : Nibble).toNat + 17 ≤ (167 : Byte).toNat ∧ (166 : Byte).toNat < 10 * (15 : Nibble).toNat + 17 := by decide
theorem test_witness_RecordFieldsAndRecordBytesCorrespond :
    ∃ r q : Fin 10 → Byte, (recSecond (r 0), recHourOf (r 1), recMinuteOf (r 1) (r 2), recDayOf (r 2), recMonthOf (r 3),
      recDowOf (r 3), recYearOf (r 4) (r 5), recValueOf (r 6) (r 7) (r 8) (r 9)) = (recSecond (q 0), recHourOf (q 1),
      recMinuteOf (q 1) (q 2), recDayOf (q 2), recMonthOf (q 3), recDowOf (q 3), recYearOf (q 4) (q 5),
      recValueOf (q 6) (q 7) (q 8) (q 9)) := ⟨fun _ => 0xFF, fun _ => 0xFF, rfl⟩
theorem test_witness_SlotsInRangeAreCounted : slotInRange 13 147 = true ∧ slotInRange 14 147 = false ∧ slotInRange 0 17 = true ∧
    slotInRange 0 16 = false ∧ slotInRange 0 7 = false := by decide
theorem test_witness_ResetsPutEveryElementAtItsResetValue : Instr.softReset = .softReset ∧ Instr.reset = .reset := ⟨rfl, rfl⟩
theorem test_witness_ResetEdgeLosesEveryOtherEvent :
    ({ State.reset with inputs := [{ PortCycle.idle with rst := true, rxTimeout := true }] } : State).inputs =
      [{ PortCycle.idle with rst := true, rxTimeout := true }] ∧ ({ PortCycle.idle with rst := true } : PortCycle).rst = true := by decide
theorem test_witness_RegistersAndOutputsAfterReset : (∃ t, exec .softReset verified = .next t) ∧ (∃ t, exec .reset verified = .next t) :=
  ⟨⟨_, rfl⟩, ⟨_, rfl⟩⟩
theorem test_witness_ControlWritesStoreTheirFields : (0xFC : Word).toNat % 4 = 0 ∧ (0xFFFFFFFD : Word).toNat % 4 = 1 ∧
    (2 : Word).toNat % 4 = 2 ∧ (0xFFFFFFFF : Word).toNat % 4 = 3 := by decide
theorem test_witness_WritesToReadOnlyOffsetsAreIgnored :
    (0x02 : WordAddr).toNat ∈ [0x02, 0x04, 0x06, 0x08, 0x0B, 0x0C, 0x0D, 0x0E] ∧
    (0x0E : WordAddr).toNat ∈ [0x02, 0x04, 0x06, 0x08, 0x0B, 0x0C, 0x0D, 0x0E] ∧ 0x0F ≤ (0x0F : WordAddr).toNat ∧
    0x0F ≤ (0x7F : WordAddr).toNat := by decide
theorem test_witness_ReadsReturnTheirWordAndChangeNothing : (0x00 : WordAddr).toNat < 0x40 ∧ (0x3F : WordAddr).toNat < 0x40 := by decide
theorem test_witness_FrameBufferWindowPacksMaskedBytes : (0 : Nat) < 4 ∧ (3 : Nat) < 4 ∧
    4 * (4 : BitVec 6).toNat + 0 < verified.rxCount.toNat ∧ ¬ 4 * (4 : BitVec 6).toNat + 1 < verified.rxCount.toNat := by decide
theorem test_witness_InfoAndRecordRegistersAreComposed : 0x0F ≤ (0x0F : WordAddr).toNat ∧ (0x0F : WordAddr).toNat < 0x40 ∧
    0x0F ≤ (0x3F : WordAddr).toNat ∧ (0x3F : WordAddr).toNat < 0x40 := by decide
theorem test_witness_ControlWritesAreIdempotent : (∃ t, exec (.wrCtrl 3) State.reset = .next t) ∧
    (∃ t, exec (.wrRxLen 9) State.reset = .next t) ∧ (∃ t, exec (.wrIntEn 9) State.reset = .next t) ∧
    (∃ t, exec (.wrIntPend 9) State.reset = .next t) := ⟨⟨_, rfl⟩, ⟨_, rfl⟩, ⟨_, rfl⟩, ⟨_, rfl⟩⟩
theorem test_witness_PendingBitsAreSetByTheirSourcesOnly :
    (∃ t, exec (.rxbyteAccum 0xA6) (accumulating 6 0x5A) = .next t ∧ (accumulating 6 0x5A).intPend.getLsbD 0 = false ∧
      t.intPend.getLsbD 0 = true ∧ t.rxState = .done) ∧
    (∃ t, exec .rxTimeoutEvt (hunting .none) = .next t ∧ (hunting .none).intPend.getLsbD 1 = false ∧
      t.intPend.getLsbD 1 = true ∧ t.rxState = .error) ∧
    (∃ t, exec .txTake (sending true) = .next t ∧ (sending true).intPend.getLsbD 2 = false ∧ t.intPend.getLsbD 2 = true) ∧
    (∃ t, exec .txEnd State.reset = .next t ∧ State.reset.intPend.getLsbD 3 = false ∧ t.intPend.getLsbD 3 = true ∧
      t.cmdErr ≠ .ok) :=
  ⟨⟨_, rfl, by decide, by decide, by decide⟩, ⟨_, rfl, by decide, by decide, by decide⟩, ⟨_, rfl, by decide, by decide⟩,
    ⟨_, rfl, by decide, by decide, by decide⟩⟩
theorem test_witness_PendingBitsStayUntilCleared :
    (∃ t, exec (.wrIntPend 8) { State.reset with intPend := 8 } = .next t ∧ (8 : Nibble).getLsbD 3 = true ∧
      t.intPend.getLsbD 3 = false) ∧
    (∃ t, exec .softReset { State.reset with intPend := 1 } = .next t ∧ (1 : Nibble).getLsbD 0 = true ∧
      t.intPend.getLsbD 0 = false) :=
  ⟨⟨_, rfl, by decide, by decide⟩, ⟨_, rfl, by decide, by decide⟩⟩
theorem test_witness_CommandResultIsWrittenByCommandsOnly :
    ∃ t, exec .txEnd State.reset = .next t ∧ t.cmdErr ≠ State.reset.cmdErr ∧ Instr.txEnd.format = .cmd :=
  ⟨_, rfl, by decide, rfl⟩
theorem test_witness_ErrorIsLeftOnlyByArmClearOrReset :
    ∃ t, exec .rxClear { State.reset with rxState := .error } = .next t ∧ t.rxState ≠ .error := ⟨_, rfl, by decide⟩
theorem test_witness_OnlyTheReceiverWritesFrameBuffer :
    (∃ t, exec (.rxbyteAccum 1) (accumulating 3 0) = .next t ∧ 2 ≠ fbNext (accumulating 3 0)) ∧
    (∃ t, exec (.rxbyteHuntNone 1) (hunting .none) = .next t ∧ (1 : Nat) ≠ 0) ∧ ∃ t, exec .txStart verified = .next t :=
  ⟨⟨_, rfl, by decide⟩, ⟨_, rfl, by decide⟩, ⟨_, rfl⟩⟩
theorem test_witness_DropFlagIsSticky :
    (∃ t, exec .rxClear { State.reset with rxDrop := true } = .next t ∧ t.rxDrop = false) ∧
    (∃ t, exec (.rxbyteDrop 0) State.reset = .next t ∧ State.reset.rxDrop = false ∧ t.rxDrop = true) ∧
    (∃ t, exec .rxArm { State.reset with rxLen := 7, rxDrop := true } = .next t ∧ t.cmdErr = .ok) :=
  ⟨⟨_, rfl, rfl⟩, ⟨_, rfl, rfl, rfl⟩, ⟨_, rfl, rfl⟩⟩
theorem test_witness_IrqIsOrOfPendingAndEnabled : (∃ t, exec .softReset verified = .next t) ∧ ∃ t, exec .reset verified = .next t :=
  ⟨⟨_, rfl⟩, ⟨_, rfl⟩⟩
theorem test_witness_RearmingHidesThePreviousFrame : (∃ t, exec (.rxArmOp 0) verified = .next t ∧ t.cmdErr = .ok) ∧
    (∃ t, exec .rxArm { verified with rxLen := 7 } = .next t ∧ t.cmdErr = .ok) ∧ (∃ t, exec .rxClear verified = .next t ∧ t.cmdErr = .ok) ∧
    (∃ t, exec .softReset verified = .next t ∧ t.cmdErr = .ok) ∧ (∃ t, exec .reset verified = .next t ∧ t.cmdErr = .ok) :=
  ⟨⟨_, rfl, rfl⟩, ⟨_, rfl, rfl⟩, ⟨_, rfl, rfl⟩, ⟨_, rfl, rfl⟩, ⟨_, rfl, rfl⟩⟩
theorem test_witness_StepsOfAnEdgeComposeInFixedOrder :
    ({ sending true with inputs := [{ PortCycle.idle with txReady := true }] } : State).inputs =
      { PortCycle.idle with txReady := true } :: [] := by decide
theorem test_witness_SameCycleConsequences :
    (accumulating 6 0x5A).rxState = .accum ∧ (accumulating 6 0x5A).rxCount.toNat + 1 = (accumulating 6 0x5A).actLen.toNat ∧
    (accumulating 6 0x5A).rxSum + 0xA6 = 0 ∧ (0 : Nibble).toNat ≤ 8 ∧ (8 : Nibble).toNat ≤ 8 ∧
    7 ≤ ({ State.reset with rxLen := 7 } : State).rxLen.toNat ∧ State.reset.syncMode = .strict ∧ (0x54 : Byte) ≠ 0x55 ∧
    ({ State.reset with syncMode := .none } : State).syncMode = .none ∧
    ({ State.reset with syncMode := .hunt } : State).syncMode = .hunt ∧
    (sending true).txOpen = true ∧ (sending true).txBusy = true := by decide
theorem test_witness_SetWinsOverClearInOneCycle : (sending true).txBusy = true ∧ (accumulating 6 0x5A).rxState = .accum ∧
    (accumulating 6 0x5A).rxCount.toNat + 1 = (accumulating 6 0x5A).actLen.toNat ∧ (accumulating 6 0x5A).rxSum + 0xA6 = 0 ∧
    (accumulating 6 0x5A).rxSum + 0xA5 ≠ 0 ∧ (hunting .strict).rxState = .hunt ∧ (hunting .strict).actMode = .strict ∧
    (0x54 : Byte) ≠ 0x55 := by decide
theorem test_witness_StepRunsTheDecodedOperation :
    nextEvent { PortCycle.idle with txReady := true, rxData := some 1 } (sending true) =
      some (.txTake, { PortCycle.idle with rxData := some 1 }) ∧
    Instr.txTake.wellFormed = true ∧ Instr.txTake.selectedBy .idle .strict = true ∧ (sending true).txBusy = true ∧
    Instr.nop.wellFormed = true ∧ Instr.nop.selectedBy .idle .strict = true ∧ Instr.nop ≠ .txTake := by decide

/-- The armed receiver with a first byte to come. -/
def armedWithByte : State := { armed with inputs := [PortCycle.ofEvent (.rxByte 0x55)] }

theorem test_witness_EveryStepKeepsTheInvariant : StateInv armedWithByte ∧ ∃ t, step armedWithByte = .next t ∧ t.rxState = .accum := by
  refine ⟨?_, _, rfl, rfl⟩
  have h := test_armed_meets_the_invariant
  exact ⟨h.memory, h.count, h.error, h.length, h.sum, h.written, h.sync, h.skip, h.hold, nofun, fun _ => rfl⟩

theorem test_witness_UnwrittenFrameBufferIsNeverObservable :
    StateInv armed ∧ sameVisible armed { armed with fb := [(9, 1)], fbEpoch := 5 } ∧ ∃ t, step armed = .next t :=
  ⟨test_armed_meets_the_invariant, ⟨rfl, fun i hi => absurd hi (Nat.not_lt_zero i)⟩, _, rfl⟩

end Sys2Proof.Tests
end

section
/-! Decoding and encoding (30_encoding.md R55 to R62): a decoded operation has its event's format and is selected by the
receiver state it was decoded for, and the decoder undoes the encoder. -/

namespace Sys2Proof

/-! ### The format of a decoded operation, and what it says of its selection -/

theorem decodeLegalCmd_format (a op : Nibble) : (decodeLegalCmd a op).format = .cmd := by
  unfold decodeLegalCmd; split <;> rfl

theorem decodeReservedCmd_format (z : BitVec 24) (a op : Nibble) : (decodeReservedCmd z a op).format = .cmd := by
  unfold decodeReservedCmd; split <;> rfl

theorem decodeCmd_format (v : Word) : (decodeCmd v).format = .cmd := by
  unfold decodeCmd
  split
  · exact decodeReservedCmd_format _ _ _
  · split
    · rfl
    · exact decodeLegalCmd_format _ _

/-- A host access is never an operation of the line or reset ports (30_encoding.md section 1). -/
theorem decodeAccess_format_ne_port (a : Access) : (decodeAccess a).format ≠ .port := by
  cases a with
  | read addr =>
    show (decodeRead addr).format ≠ .port
    unfold decodeRead
    split
    · split <;> nofun
    · nofun
  | write addr v =>
    show (decodeWrite addr v).format ≠ .port
    unfold decodeWrite
    split
    case h_2 => rw [decodeCmd_format]; nofun
    all_goals nofun

/-- Only port rows carry a condition on the receiver's state. -/
theorem selectedBy_of_format_ne_port {i : Instr} (h : i.format ≠ .port) (st : RxState) (m : SyncMode) :
    i.selectedBy st m = true := by
  cases i
  case rxbyteDrop | rxbyteHuntNone | rxbyteHuntStrict | rxbyteHuntHunt | rxbyteAccum => exact absurd rfl h
  all_goals rfl

/-- The decoder reads a received byte as the row that `rx_state` and `act_mode` select (R84 to R88). -/
theorem decodeRxByte_selectedBy (st : RxState) (m : SyncMode) (b : Byte) : (decodeRxByte st m b).selectedBy st m = true := by
  cases st with
  | hunt => cases m <;> rfl
  | idle | accum | done | error => rfl

theorem decodeRxByte_ne_txTake (st : RxState) (m : SyncMode) (b : Byte) : decodeRxByte st m b ≠ .txTake := by
  cases st with
  | hunt => cases m <;> nofun
  | idle | accum | done | error => nofun

theorem decodeEvent_selectedBy (st : RxState) (m : SyncMode) (e : PortEvent) :
    (decodeEvent st m e).selectedBy st m = true := by
  cases e with
  | access a => exact selectedBy_of_format_ne_port (decodeAccess_format_ne_port a) st m
  | rxByte b => exact decodeRxByte_selectedBy st m b
  | txTake | rxTimeout | reset => rfl

theorem eq_txTake_of_decodeEvent_eq {st : RxState} {m : SyncMode} {e : PortEvent} (h : decodeEvent st m e = .txTake) :
    e = .txTake := by
  cases e with
  | access a => exact absurd (congrArg Instr.format h) (decodeAccess_format_ne_port a)
  | rxByte b => exact absurd h (decodeRxByte_ne_txTake st m b)
  | txTake => rfl
  | rxTimeout | reset => cases h

/-! ### The decoder undoes the encoder -/

/-- A write of a CMD word is read by its fields (R55 to R59). -/
theorem decodeEvent_encodeCmd (st : RxState) (m : SyncMode) (z : BitVec 24) (a op : Nibble) :
    decodeEvent st m (encodeCmd z a op) =
      if opReserved op then decodeReservedCmd z a op
      else if malformedCmd z a op then .cmdNonzeroZ z a op else decodeLegalCmd a op :=
  decodeCmd_cmdWord z a op

/-- A malformed word is no RESERVED row's word (R58). -/
theorem opReserved_of_malformedCmd {z : BitVec 24} {a op : Nibble} (h : malformedCmd z a op = true) :
    opReserved op = false := by
  obtain ⟨hop, -⟩ : opReserved op = false ∧ _ := by
    simpa only [malformedCmd, Bool.and_eq_true, Bool.not_eq_true'] using h
  exact hop

theorem decodeWrite_of_no_row {addr : WordAddr} (v : Word) (h : writeHasRow addr = false) :
    decodeWrite addr v = .wrIgnored addr v := by
  unfold decodeWrite
  split
  case h_8 => rfl
  all_goals simp_all [writeHasRow]

theorem decodeRead_of_readIsReg {addr : WordAddr} (h : readIsReg addr = true) : decodeRead addr = .rdReg addr := by
  obtain ⟨hlt, hne⟩ : addr.toNat < 0x40 ∧ addr.toNat ≠ 0x08 := by simpa [readIsReg] using h
  rw [decodeRead, if_pos hlt, if_neg hne]

theorem decodeRead_fbAddr (j : BitVec 6) : decodeRead ((1 : BitVec 1) ++ j) = .rdFb j := by
  have hge : ¬ ((1 : BitVec 1) ++ j).toNat < 0x40 := by rw [fbAddr_toNat]; omega
  exact (if_neg hge).trans (congrArg Instr.rdFb (fbAddr_index j))

/-- A received byte is read back as the row that was encoded, by a receiver whose state selects that row (R84 to R88). -/
theorem decodeRxByte_of_selectedBy {i : Instr} {st : RxState} {m : SyncMode} {b : Byte} (he : encode i = .rxByte b)
    (hs : i.selectedBy st m = true) : decodeRxByte st m b = i := by
  cases i <;> cases he <;> simp only [Instr.selectedBy, Bool.or_eq_true, Bool.and_eq_true, decide_eq_true_eq] at hs
  case rxbyteDrop => rcases hs with (rfl | rfl) | rfl <;> rfl
  case rxbyteAccum => subst hs; rfl
  case rxbyteHuntNone | rxbyteHuntStrict | rxbyteHuntHunt => obtain ⟨rfl, rfl⟩ := hs; rfl

/-- R55 to R62: a well-formed operation is read back from its own event by a receiver whose state selects its row. -/
theorem decodeEvent_encode {i : Instr} {st : RxState} {m : SyncMode} (hw : i.wellFormed = true)
    (hs : i.selectedBy st m = true) : decodeEvent st m (encode i) = i := by
  cases i
  case rxbyteDrop | rxbyteHuntNone | rxbyteHuntStrict | rxbyteHuntHunt | rxbyteAccum =>
    exact decodeRxByte_of_selectedBy rfl hs
  case cmdNonzeroZ z a op =>
    have hm : malformedCmd z a op = true := hw
    exact (decodeEvent_encodeCmd st m z a op).trans (by simp [opReserved_of_malformedCmd hm, hm])
  case wrIgnored addr v => exact decodeWrite_of_no_row v (by simpa [Instr.wellFormed] using hw)
  case rdReg addr => exact decodeRead_of_readIsReg hw
  case rdFb j => exact decodeRead_fbAddr j
  case wrCtrl | wrRxLen | wrTxData | wrCkData | wrIntPend | wrIntEn | rdCkInfo | txTake | rxTimeoutEvt | reset => rfl
  all_goals exact decodeEvent_encodeCmd st m _ _ _

end Sys2Proof
end

section
/-! What one step answers (00_scope.md R6, R7; 60_exceptions.md R107, R117). -/

namespace Sys2Proof.Machine

/-- TxTake is an event only while a byte is held (R62, R77). -/
theorem txBusy_of_nextEvent_txTake {c left : PortCycle} {s : State} (h : nextEvent c s = some (.txTake, left)) :
    s.txBusy = true := by
  rcases nextEvent_cases c s with ⟨-, he⟩ | ⟨-, a, -, he⟩ | ⟨-, -, -, hb, -⟩ | ⟨-, -, -, b, -, he⟩ | ⟨-, -, -, -, -, he⟩ |
    ⟨-, -, -, -, -, he⟩
  case inr.inr.inl => exact hb
  all_goals rw [he] at h; cases h

/-- An edge that carries one event gives that event first and has nothing left after it. -/
theorem nextEvent_ofEvent {e : PortEvent} {s : State} (h : e = .txTake → s.txBusy = true) :
    nextEvent (PortCycle.ofEvent e) s = some (e, PortCycle.idle) := by
  cases e with
  | txTake => simp [nextEvent, PortCycle.ofEvent, PortCycle.idle, h rfl]
  | access a | rxByte b | rxTimeout | reset => rfl

/-- A step with an event left at the oldest edge runs the operation that event decodes to (R6, R117). -/
theorem step_of_nextEvent {s : State} {c left : PortCycle} {rest : List PortCycle} {e : PortEvent}
    (hi : s.inputs = c :: rest) (hn : nextEvent c s = some (e, left)) :
    step s = exec (decodeEvent s.rxState s.actMode e) { s with inputs := left :: rest } := by
  simp [step, fetch, hi, hn]

/-- The operation of the next event always has a meaning: the decoder reads a byte as the row the state selects, and a take
is an event only while a byte is held. -/
theorem exec_answers_of_nextEvent {c left : PortCycle} {s : State} {e : PortEvent} (hn : nextEvent c s = some (e, left))
    (inputs : List PortCycle) : ∃ t, exec (decodeEvent s.rxState s.actMode e) { s with inputs := inputs } = .next t := by
  refine exec_answers (decodeEvent_selectedBy s.rxState s.actMode e) fun hd => ?_
  have he : e = .txTake := eq_txTake_of_decodeEvent_eq hd
  subst he
  exact txBusy_of_nextEvent_txTake hn

/-- Settles O57: a step keeps the state, ends an edge, or runs the operation of an event, and that operation answers. -/
theorem everyStepAnswersANextState : Obligations.EveryStepAnswersANextState := by
  intro s
  rcases step_cases s with ⟨-, h⟩ | ⟨c, rest, -, -, h⟩ | ⟨c, rest, e, left, -, hn, h⟩
  · exact ⟨_, h⟩
  · exact ⟨_, h⟩
  · exact h ▸ exec_answers_of_nextEvent hn (left :: rest)

/-- A queued operation is what the next step runs: its edge gives its event, and the decoder reads the operation back. -/
theorem step_queueEvent_encode {i : Instr} {s : State} (hw : i.wellFormed = true)
    (hs : i.selectedBy s.rxState s.actMode = true) (ht : i = .txTake → s.txBusy = true) :
    step (queueEvent (encode i) s) = exec i { s with inputs := PortCycle.idle :: s.inputs } := by
  have hd : decodeEvent s.rxState s.actMode (encode i) = i := decodeEvent_encode hw hs
  have hn : nextEvent (PortCycle.ofEvent (encode i)) (queueEvent (encode i) s) = some (encode i, PortCycle.idle) :=
    nextEvent_ofEvent fun he => ht (by rw [← hd, he]; rfl)
  calc step (queueEvent (encode i) s)
      = exec (decodeEvent s.rxState s.actMode (encode i)) { s with inputs := PortCycle.idle :: s.inputs } :=
        step_of_nextEvent rfl hn
    _ = exec i { s with inputs := PortCycle.idle :: s.inputs } := by rw [hd]

/-- Settles O56, by the rule for a step with an event left and its case for a queued operation. -/
theorem stepRunsTheDecodedOperation : Obligations.StepRunsTheDecodedOperation :=
  ⟨fun _ _ _ _ _ hi hn => step_of_nextEvent hi hn, fun _ _ hw hs ht => step_queueEvent_encode hw hs ht⟩

end Sys2Proof.Machine
end

section
/-! What an operation can do to the receiver, its frame and the record registers (42_rx_framer.md, 43_record_decoder.md R95),
and the two-state relation "nothing of that has changed". -/

namespace Sys2Proof.Machine

/-! ### Nothing of the receiver, the frame and the record has changed -/

/-- `s` with every field taken from `u` that is neither the receiver's, the frame's nor the record's. The drop flag is one of
these: no other part of the receiver depends on it (R15). -/
def withRest (u s : State) : State :=
  { s with syncMode := u.syncMode, rxLen := u.rxLen, rxDrop := u.rxDrop, txOpen := u.txOpen, txBusy := u.txBusy
           txHold := u.txHold, txSum := u.txSum, txCnt := u.txCnt, ckSum := u.ckSum, ckCnt := u.ckCnt
           intPend := u.intPend, intEn := u.intEn, cmdErr := u.cmdErr, inputs := u.inputs, txOut := u.txOut
           rdOut := u.rdOut }

/-- `t` has the receiver, the frame buffer and the record registers of `s`. -/
def sameFrame (s t : State) : Prop := t = withRest t s

section
variable {s t : State} (h : sameFrame s t)
include h

theorem sameFrame.actLen : t.actLen = s.actLen := (congrArg State.actLen h :)
theorem sameFrame.actMode : t.actMode = s.actMode := (congrArg State.actMode h :)
theorem sameFrame.fb : t.fb = s.fb := (congrArg State.fb h :)
theorem sameFrame.fbEpoch : t.fbEpoch = s.fbEpoch := (congrArg State.fbEpoch h :)

theorem sameFrame.fbByte (i : Nat) : fbByte t i = fbByte s i := fbByte_congr h.fb h.fbEpoch i

end

/-! ### What an operation can do to them -/

/-- What an operation does to the receiver, the frame and the record: the outcomes of `Effect` with nothing said of
the rest. -/
inductive RxEffect : Instr → State → State → Prop
  | kept {i s t} (h : sameFrame s t) (hd : t.rxDrop = s.rxDrop) : RxEffect i s t
  | dropped (b s) (h : s.rxState = .idle ∨ s.rxState = .done ∨ s.rxState = .error) :
      RxEffect (.rxbyteDrop b) s { s with rxDrop := true }
  | armed {i} (len s) (hi : i = .rxArm ∨ ∃ a, i = .rxArmOp a) (hl : Config.minLen ≤ len.toNat) :
      RxEffect i s (armCommon len s)
  | cleared (s) : RxEffect .rxClear s (commandOk (restartReceiver .idle s))
  | expired {i s t} (h : s.rxState = .hunt ∨ s.rxState = .accum) (ht : sameFrame (raiseRxError .incomplete s) t)
      (hd : t.rxDrop = s.rxDrop) : RxEffect i s t
  | syncLost (b s) (h : s.rxState = .hunt) : RxEffect (.rxbyteHuntStrict b) s (raiseRxError .sync s)
  | skipped (b s) (h : s.rxState = .hunt) (hm : s.actMode = .hunt) :
      RxEffect (.rxbyteHuntHunt b) s { s with rxSkip := sat8 (s.rxSkip.toNat + 1) }
  | started {i} (b s) (hi : i = .rxbyteHuntNone b ∨ i = .rxbyteHuntStrict b ∨ i = .rxbyteHuntHunt b) (h : s.rxState = .hunt)
      (hb : s.actMode ≠ .none → b = Config.sync) : RxEffect i s (startFrame b s)
  | stored (b s) (h : s.rxState = .accum) : RxEffect (.rxbyteAccum b) s (accumulate b s)
  | recordLoaded (k s) (h : s.rxState = .done) (hk : slotInRange k s.actLen = true) :
      RxEffect (.decode k) s (commandOk (loadRecord k s))
  | wasReset {i} (s) (hi : i = .softReset ∨ i = .reset) : RxEffect i s (resetAll s)

/-- An operation that answers a next state does one of these to the receiver, the frame and the record. -/
theorem rxEffect_of_effect {i : Instr} {s t : State} (e : Effect i s t) : RxEffect i s t := by
  cases e
  case rxArm h => exact .armed s.rxLen s (.inl rfl) h
  case rxArmOp a len h hl => exact .armed len s (.inr ⟨a, rfl⟩) hl
  case rxClear => exact .cleared s
  case rxTimeoutCmd h => exact .expired h rfl rfl
  case rxTimeoutEvt h => exact .expired h rfl rfl
  case decode k h hk => exact .recordLoaded k s h hk
  case rxbyteDrop b h => exact .dropped b s h
  case rxbyteHuntNone b h hm => exact .started b s (.inl rfl) h fun hne => absurd hm hne
  case rxbyteHuntStrict h hm => exact .started Config.sync s (.inr (.inl rfl)) h fun _ => rfl
  case rxbyteHuntStrictBad b hb h hm => exact .syncLost b s h
  case rxbyteHuntHunt h hm => exact .started Config.sync s (.inr (.inr rfl)) h fun _ => rfl
  case rxbyteHuntHuntSkip b hb h hm => exact .skipped b s h hm
  case rxbyteAccum b h => exact .stored b s h
  case softReset => exact .wasReset s (.inl rfl)
  case reset => exact .wasReset s (.inr rfl)
  all_goals exact .kept rfl rfl

theorem rxEffect_of_exec {i : Instr} {s t : State} (h : exec i s = .next t) : RxEffect i s t :=
  rxEffect_of_effect (effect_of_exec h)

end Sys2Proof.Machine
end

section
/-! Storing a received byte (42_rx_framer.md R85 to R88): the first byte and every further one are the same store at
`FB[rx_count]`, and what it does to the frame received so far. -/

namespace Sys2Proof.Machine

/-- `FB[rx_count] <- b`, with `rx_count` and `rx_sum` counting it. -/
def storeByte (b : Byte) (s : State) : State :=
  fbStore (fbNext s) b { s with rxCount := BitVec.ofNat 8 (s.rxCount.toNat + 1), rxSum := s.rxSum + b }

/-- The receiver's state and error replaced, and `int_pend` with them: how a frame ends or goes on (R88, R112). -/
def withOutcome (st : RxState) (e : RxErr) (p : Nibble) (s : State) : State :=
  { s with rxState := st, rxErr := e, intPend := p }

/-- A first byte is a byte stored in an empty frame (R85 to R87). -/
theorem startFrame_eq_storeByte (b : Byte) {s : State} (hc : s.rxCount = 0) (hs : s.rxSum = 0) :
    startFrame b s = withOutcome .accum s.rxErr s.intPend (storeByte b s) := by
  simp [startFrame, storeByte, withOutcome, fbStore, fbNext, hc, hs]

/-- A byte in ACCUM is stored, and the frame goes on, is DONE, or ends in CHECKSUM (R88). -/
theorem accumulate_storeByte (b : Byte) (s : State) :
    (s.rxCount.toNat + 1 ≠ s.actLen.toNat ∧ accumulate b s = storeByte b s) ∨
    (s.rxCount.toNat + 1 = s.actLen.toNat ∧ s.rxSum + b = 0 ∧
      accumulate b s = withOutcome .done s.rxErr (s.intPend ||| pendRxDone) (storeByte b s)) ∨
    (s.rxCount.toNat + 1 = s.actLen.toNat ∧ s.rxSum + b ≠ 0 ∧
      accumulate b s = withOutcome .error .checksum (s.intPend ||| pendRxErr) (storeByte b s)) :=
  accumulate_cases b s

section
variable {b : Byte} {s : State}

theorem accumulate_of_more (hn : s.rxCount.toNat + 1 ≠ s.actLen.toNat) : accumulate b s = storeByte b s := if_neg hn

theorem accumulate_of_verified (hn : s.rxCount.toNat + 1 = s.actLen.toNat) (h0 : s.rxSum + b = 0) :
    accumulate b s = withOutcome .done s.rxErr (s.intPend ||| pendRxDone) (storeByte b s) :=
  (if_pos hn).trans (if_pos h0)

theorem accumulate_of_bad_sum (hn : s.rxCount.toNat + 1 = s.actLen.toNat) (h0 : s.rxSum + b ≠ 0) :
    accumulate b s = withOutcome .error .checksum (s.intPend ||| pendRxErr) (storeByte b s) :=
  (if_pos hn).trans (if_neg h0)

end

section
variable (b : Byte) {s : State} (hlt : s.rxCount.toNat + 1 < 256)
include hlt

theorem storeByte_rxCount_toNat : (storeByte b s).rxCount.toNat = s.rxCount.toNat + 1 :=
  (BitVec.toNat_ofNat _ 8).trans (Nat.mod_eq_of_lt hlt)

/-- The store appends the byte to the frame. -/
theorem framePrefix_storeByte : framePrefix (storeByte b s) = framePrefix s ++ [b] := by
  have hkept : fbPrefix (storeByte b s) s.rxCount.toNat = fbPrefix s s.rxCount.toNat :=
    fbPrefix_congr fun i hi => fbByte_of_insert_other rfl rfl (Nat.ne_of_lt hi)
  have hnew : fbByte (storeByte b s) s.rxCount.toNat = b := fbByte_of_insert_same rfl
  rw [framePrefix, storeByte_rxCount_toNat b hlt, fbPrefix_succ, hkept, hnew, framePrefix]

end

/-- A field that the receiver's state and error and `int_pend` are not part of is as the store of the byte left it. -/
theorem accumulate_field {α : Type} {f : State → α} (hf : ∀ st e p u, f (withOutcome st e p u) = f u) (b : Byte) (s : State) :
    f (accumulate b s) = f (storeByte b s) := by
  rcases accumulate_storeByte b s with ⟨-, ha⟩ | ⟨-, -, ha⟩ | ⟨-, -, ha⟩ <;> simp only [ha, hf]

@[simp] theorem accumulate_actLen (b : Byte) (s : State) : (accumulate b s).actLen = s.actLen :=
  accumulate_field (f := State.actLen) (fun _ _ _ _ => rfl) b s

@[simp] theorem accumulate_actMode (b : Byte) (s : State) : (accumulate b s).actMode = s.actMode :=
  accumulate_field (f := State.actMode) (fun _ _ _ _ => rfl) b s

@[simp] theorem accumulate_rxDrop (b : Byte) (s : State) : (accumulate b s).rxDrop = s.rxDrop :=
  accumulate_field (f := State.rxDrop) (fun _ _ _ _ => rfl) b s

@[simp] theorem accumulate_txHold (b : Byte) (s : State) : (accumulate b s).txHold = s.txHold :=
  accumulate_field (f := State.txHold) (fun _ _ _ _ => rfl) b s

@[simp] theorem accumulate_txBusy (b : Byte) (s : State) : (accumulate b s).txBusy = s.txBusy :=
  accumulate_field (f := State.txBusy) (fun _ _ _ _ => rfl) b s

@[simp] theorem accumulate_cmdErr (b : Byte) (s : State) : (accumulate b s).cmdErr = s.cmdErr :=
  accumulate_field (f := State.cmdErr) (fun _ _ _ _ => rfl) b s

@[simp] theorem accumulate_fbEpoch (b : Byte) (s : State) : (accumulate b s).fbEpoch = s.fbEpoch :=
  accumulate_field (f := State.fbEpoch) (fun _ _ _ _ => rfl) b s

@[simp] theorem accumulate_rxCount (b : Byte) (s : State) : (accumulate b s).rxCount = BitVec.ofNat 8 (s.rxCount.toNat + 1) :=
  accumulate_field (f := State.rxCount) (fun _ _ _ _ => rfl) b s

/-- What a byte in ACCUM does is decided by the count, the length and the sum: two receivers with the same ones whose stores
differ by `g` end up differing by `g`, where `g` leaves the state, the error and `int_pend` alone. -/
theorem accumulate_alike {b : Byte} {s u : State} {g : State → State} (hcount : u.rxCount = s.rxCount)
    (hlen : u.actLen = s.actLen) (hsum : u.rxSum = s.rxSum) (herr : u.rxErr = s.rxErr) (hpend : u.intPend = s.intPend)
    (hstore : storeByte b u = g (storeByte b s)) (hg : ∀ st e p v, withOutcome st e p (g v) = g (withOutcome st e p v)) :
    accumulate b u = g (accumulate b s) := by
  by_cases hn : s.rxCount.toNat + 1 = s.actLen.toNat
  · have hnu : u.rxCount.toNat + 1 = u.actLen.toNat := by rw [hcount, hlen]; exact hn
    by_cases h0 : s.rxSum + b = 0
    · rw [accumulate_of_verified hn h0, accumulate_of_verified hnu (hsum ▸ h0), hstore, hg, herr, hpend]
    · rw [accumulate_of_bad_sum hn h0, accumulate_of_bad_sum hnu (hsum ▸ h0), hstore, hg, hpend]
  · have hnu : u.rxCount.toNat + 1 ≠ u.actLen.toNat := by rw [hcount, hlen]; exact hn
    rw [accumulate_of_more hn, accumulate_of_more hnu, hstore]

/-- The frame received so far depends on FB and `rx_count` alone. -/
theorem framePrefix_congr {s t : State} (hf : t.fb = s.fb) (he : t.fbEpoch = s.fbEpoch) (hc : t.rxCount = s.rxCount) :
    framePrefix s = framePrefix t := by
  rw [framePrefix, framePrefix, hc]
  exact (fbPrefix_congr fun i _ => fbByte_congr hf he i).symm

theorem sumFits.congr {s t : State} (h : sumFits s) (hf : t.fb = s.fb) (he : t.fbEpoch = s.fbEpoch)
    (hc : t.rxCount = s.rxCount) (hs : t.rxSum = s.rxSum) (hst : t.rxState = s.rxState) (hre : t.rxErr = s.rxErr) :
    sumFits t := by
  rw [sumFits, ← framePrefix_congr hf he hc, hs, hst, hre]
  exact h

/-- The sum of a sequence grows by the byte appended (R65). -/
theorem sum8_concat (bs : List Byte) (b : Byte) : sum8 (bs ++ [b]) = sum8 bs + b := by
  induction bs with
  | nil => simp
  | cons c bs ih => simp [ih, BitVec.add_assoc]

end Sys2Proof.Machine
end

section
/-! Every step keeps the invariant (10_state.md R10 to R17, R21; R90, R97). A receiver in HUNT or ACCUM meets `OpenFrame`,
which does not speak of its state and error, so a stored byte and the outcome that follows it are two separate facts. -/

namespace Sys2Proof.Machine

/-! ### The invariant of an open frame -/

/-- What the invariant says of an armed receiver whose frame has not ended, apart from its state, its error and the bound on
`rx_count`. No record is held (R97). -/
structure OpenFrame (s : State) : Prop where
  memory : Memory.wf s.fb = true
  length : Config.minLen ≤ s.actLen.toNat
  sum : s.rxSum = sum8 (framePrefix s)
  written : frameWritten s
  sync : syncFits s
  skip : skipFits s
  hold : holdFits s
  record : s = clearRecord s

/-- Only IDLE goes with a length of 0 (R11). -/
theorem StateInv.minLen_le {s : State} (h : StateInv s) (hs : s.rxState ≠ .idle) : Config.minLen ≤ s.actLen.toNat := by
  rcases h.length with ⟨-, hi⟩ | hl
  · exact absurd hi hs
  · exact hl

/-- Only DONE goes with a record (R97). -/
theorem StateInv.record_clear {s : State} (h : StateInv s) (hs : s.rxState ≠ .done) : s = clearRecord s := by
  cases hv : s.recValid with
  | false => exact h.record.2 hv
  | true => exact absurd (h.record.1 hv).1 hs

theorem StateInv.openFrame {s : State} (h : StateInv s) (hs : s.rxState = .hunt ∨ s.rxState = .accum) : OpenFrame s := by
  have hne : s.rxState ≠ .idle ∧ s.rxState ≠ .done := by rcases hs with hs | hs <;> simp [hs]
  exact ⟨h.memory, h.minLen_le hne.1, h.sum.1, h.written, h.sync, h.skip, h.hold, h.record_clear hne.2⟩

/-- R12 in HUNT. -/
theorem StateInv.rxCount_of_hunt {s : State} (h : StateInv s) (hs : s.rxState = .hunt) : s.rxCount = 0 := by
  simpa [countFits, hs] using h.count

/-- R12 in ACCUM. -/
theorem StateInv.rxCount_of_accum {s : State} (h : StateInv s) (hs : s.rxState = .accum) :
    1 ≤ s.rxCount.toNat ∧ s.rxCount.toNat + 1 ≤ s.actLen.toNat := by
  simpa [countFits, hs] using h.count

/-- R13 with R12 in HUNT. -/
theorem StateInv.rxSum_of_hunt {s : State} (h : StateInv s) (hs : s.rxState = .hunt) : s.rxSum = 0 := by
  rw [h.sum.1, framePrefix, h.rxCount_of_hunt hs]; rfl

theorem StateInv.rxErr_of_not_error {s : State} (h : StateInv s) (hs : s.rxState ≠ .error) : s.rxErr = .none :=
  h.error.2 hs

section
variable {s : State} (h : OpenFrame s)
include h

theorem OpenFrame.withOutcome (st : RxState) (e : RxErr) (p : Nibble) : OpenFrame (withOutcome st e p s) :=
  ⟨h.memory, h.length, h.sum.trans (congrArg sum8 (framePrefix_congr rfl rfl rfl)), h.written, h.sync, h.skip, h.hold,
    congrArg (Machine.withOutcome st e p) h.record⟩

/-- An open frame with a fitting state, error and count meets the invariant. -/
theorem OpenFrame.stateInv (hc : countFits s = true) (he : errorFits s)
    (hd : s.rxState = .done → s.rxSum = 0) (hk : s.rxErr = .checksum → s.rxSum ≠ 0) : StateInv s where
  memory := h.memory
  count := hc
  error := he
  length := .inr h.length
  sum := ⟨h.sum, hd, hk⟩
  written := h.written
  sync := h.sync
  skip := h.skip
  hold := h.hold
  record := ⟨fun hv => absurd ((congrArg State.recValid h.record).symm.trans hv) Bool.false_ne_true, fun _ => h.record⟩

theorem OpenFrame.storeByte {b : Byte} (hlt : s.rxCount.toNat + 1 < 256)
    (hb : s.rxCount = 0 → s.actMode ≠ .none → b = Config.sync) : OpenFrame (storeByte b s) where
  memory := fbInsert_wf b h.memory (fbNext_lt s)
  length := h.length
  sum := by rw [framePrefix_storeByte b hlt, sum8_concat, ← h.sum]; rfl
  written := by
    intro i hi
    rw [storeByte_rxCount_toNat b hlt] at hi
    show (fbLookup (fbInsert (fbNext s) b s.fb) i).isSome = true
    rw [fbLookup_fbInsert]
    split
    · rfl
    · rename_i hne
      exact h.written i (by unfold fbNext at hne; omega)
  sync := by
    intro hm _
    by_cases hc : s.rxCount = 0
    · have hnext : fbNext s = 0 := congrArg BitVec.toNat hc
      have hb0 : fbByte (Machine.storeByte b s) 0 = b := by
        rw [← hnext]; exact fbByte_of_insert_same rfl
      exact hb0.trans (hb hc hm)
    · have hne : (0 : Nat) ≠ fbNext s := fun h0 => hc (BitVec.eq_of_toNat_eq h0.symm)
      have hb0 : fbByte (Machine.storeByte b s) 0 = fbByte s 0 := fbByte_of_insert_other rfl rfl hne
      exact hb0.trans (h.sync hm hc)
  skip := h.skip
  hold := h.hold
  record := congrArg (Machine.storeByte b) h.record

/-- A receive error on an open frame (R112). -/
theorem OpenFrame.raiseRxError {e : RxErr} (hc : countFits (raiseRxError e s) = true)
    (hne : e ≠ .none) (hk : e = .checksum → s.rxSum ≠ 0) : StateInv (raiseRxError e s) :=
  (h.withOutcome .error e (s.intPend ||| pendRxErr)).stateInv hc ⟨fun h0 => absurd h0 hne, fun h0 => absurd rfl h0⟩ nofun hk

end

/-! ### Each outcome keeps the invariant -/

/-- The invariant speaks of the receiver, the frame, the record and the hold register alone. -/
theorem StateInv.of_sameFrame {s t : State} (h : StateInv s) (hf : sameFrame s t) (hh : holdFits t) : StateInv t := by
  have hsum : sumFits (withRest t s) := h.sum.congr rfl rfl rfl rfl rfl rfl
  have hrecord : recordFits (withRest t s) := by
    refine ⟨fun hv => ?_, fun hv => congrArg (withRest t) (h.record.2 hv)⟩
    obtain ⟨hd, hr, hslot⟩ := h.record.1 hv
    exact ⟨hd, hr, congrArg (withRest t) hslot⟩
  rw [hf]
  exact ⟨h.memory, h.count, h.error, h.length, hsum, h.written, h.sync, h.skip, hh, hrecord⟩

/-- Going back to IDLE or to HUNT empties the frame and the record (R80, R82). -/
theorem restartReceiver_stateInv {st : RxState} {s : State} (hst : st = .idle ∨ st = .hunt)
    (hm : Memory.wf s.fb = true) (hh : holdFits s) (hl : lengthFits (restartReceiver st s)) :
    StateInv (restartReceiver st s) where
  memory := hm
  count := by rcases hst with rfl | rfl <;> rfl
  error := ⟨fun _ => by rcases hst with rfl | rfl <;> nofun, fun _ => rfl⟩
  length := hl
  sum := ⟨rfl, fun _ => rfl, nofun⟩
  written := fun i hi => absurd hi (Nat.not_lt_zero i)
  sync := fun _ h => absurd rfl h
  skip := fun _ => rfl
  hold := hh
  record := ⟨nofun, fun _ => rfl⟩

theorem resetAll_stateInv (s : State) : StateInv (resetAll s) where
  memory := rfl
  count := rfl
  error := ⟨fun _ => nofun, fun _ => rfl⟩
  length := .inl ⟨rfl, rfl⟩
  sum := ⟨rfl, fun _ => rfl, nofun⟩
  written := fun i hi => absurd hi (Nat.not_lt_zero i)
  sync := fun _ h => absurd rfl h
  skip := fun _ => rfl
  hold := fun _ => rfl
  record := ⟨nofun, fun _ => rfl⟩

section
variable {s : State} (h : StateInv s)
include h

theorem StateInv.armCommon {len : Byte} (hl : Config.minLen ≤ len.toNat) : StateInv (armCommon len s) :=
  have hr : StateInv (restartReceiver .hunt { s with actLen := len, actMode := s.syncMode }) :=
    restartReceiver_stateInv (.inr rfl) h.memory h.hold (.inr hl)
  hr.of_sameFrame rfl h.hold

theorem StateInv.rxClear : StateInv (commandOk (restartReceiver .idle s)) := by
  have hl : lengthFits (restartReceiver .idle s) := h.length.imp (fun ⟨h0, _⟩ => ⟨h0, rfl⟩) id
  exact (restartReceiver_stateInv (.inl rfl) h.memory h.hold hl).of_sameFrame rfl h.hold

/-- A timeout in HUNT or ACCUM finds at least one byte of the frame missing (R12, R83, R89). -/
theorem StateInv.raiseIncomplete (hs : s.rxState = .hunt ∨ s.rxState = .accum) :
    StateInv (raiseRxError .incomplete s) := by
  have hlen := (h.openFrame hs).length
  have hlt : s.rxCount.toNat + 1 ≤ s.actLen.toNat := by
    rcases hs with hs | hs
    · rw [h.rxCount_of_hunt hs]; exact Nat.le_trans (by decide) hlen
    · exact (h.rxCount_of_accum hs).2
  exact (h.openFrame hs).raiseRxError (decide_eq_true hlt) nofun nofun

theorem StateInv.raiseSync (hs : s.rxState = .hunt) : StateInv (raiseRxError .sync s) :=
  (h.openFrame (.inl hs)).raiseRxError (decide_eq_true (h.rxCount_of_hunt hs)) nofun nofun

/-- Only the HUNT mode counts a skipped byte (R14). -/
theorem StateInv.skipByte (n : Byte) (hs : s.rxState = .hunt) (hm : s.actMode = .hunt) :
    StateInv { s with rxSkip := n } := by
  have hopen := h.openFrame (.inl hs)
  have hskipped : OpenFrame { s with rxSkip := n } :=
    { memory := hopen.memory
      length := hopen.length
      sum := hopen.sum.trans (congrArg sum8 (framePrefix_congr rfl rfl rfl))
      written := hopen.written
      sync := hopen.sync
      skip := fun hne => absurd hm hne
      hold := hopen.hold
      record := congrArg (fun u : State => { u with rxSkip := n }) hopen.record }
  obtain ⟨-, hdone, hchecksum⟩ := h.sum
  exact hskipped.stateInv h.count h.error hdone hchecksum

theorem StateInv.startFrame {b : Byte} (hs : s.rxState = .hunt) (hb : s.actMode ≠ .none → b = Config.sync) :
    StateInv (startFrame b s) := by
  have hc := h.rxCount_of_hunt hs
  have hlen := (h.openFrame (.inl hs)).length
  have hlt : s.rxCount.toNat + 1 < 256 := by rw [hc]; decide
  have he : s.rxErr = .none := h.rxErr_of_not_error (by simp [hs])
  rw [startFrame_eq_storeByte b hc (h.rxSum_of_hunt hs), he]
  have hstored := ((h.openFrame (.inl hs)).storeByte hlt fun _ => hb).withOutcome .accum .none s.intPend
  refine hstored.stateInv ?_ ⟨fun _ => nofun, fun _ => rfl⟩ nofun nofun
  have hn : (storeByte b s).rxCount.toNat = 1 := (storeByte_rxCount_toNat b hlt).trans (by rw [hc]; rfl)
  have hle : 7 ≤ s.actLen.toNat := hlen
  show (decide (1 ≤ (storeByte b s).rxCount.toNat) && decide ((storeByte b s).rxCount.toNat + 1 ≤ s.actLen.toNat)) = true
  simp only [hn, Bool.and_eq_true, decide_eq_true_eq]
  omega

theorem StateInv.accumulate {b : Byte} (hs : s.rxState = .accum) : StateInv (accumulate b s) := by
  obtain ⟨hpos, hle⟩ := h.rxCount_of_accum hs
  have hlt : s.rxCount.toNat + 1 < 256 := Nat.lt_of_le_of_lt hle s.actLen.isLt
  have hn := storeByte_rxCount_toNat b hlt
  have he : s.rxErr = .none := h.rxErr_of_not_error (by simp [hs])
  have hstored : OpenFrame (Machine.storeByte b s) :=
    (h.openFrame (.inr hs)).storeByte hlt fun h0 => absurd (congrArg BitVec.toNat h0) (Nat.ne_of_gt hpos)
  rcases accumulate_storeByte b s with ⟨hne, ha⟩ | ⟨heq, h0, ha⟩ | ⟨heq, h0, ha⟩
  · have hc : countFits (storeByte b s) = true := by
      have : (storeByte b s).rxState = .accum := hs
      have hal : (storeByte b s).actLen = s.actLen := rfl
      simp only [countFits, this, hn, hal, Bool.and_eq_true, decide_eq_true_eq]
      omega
    rw [ha]
    exact hstored.stateInv hc ⟨fun _ => by simp [storeByte, hs], fun _ => he⟩
      (fun hd => absurd (hs.symm.trans hd) nofun) fun hk => absurd (he.symm.trans hk) nofun
  · have hfull : (storeByte b s).rxCount = s.actLen := BitVec.eq_of_toNat_eq (hn.trans heq)
    rw [ha, he]
    exact (hstored.withOutcome _ _ _).stateInv (decide_eq_true hfull) ⟨fun _ => nofun, fun _ => rfl⟩ (fun _ => h0) nofun
  · have hfull : (storeByte b s).rxCount = s.actLen := BitVec.eq_of_toNat_eq (hn.trans heq)
    rw [ha]
    exact (hstored.withOutcome _ _ _).stateInv (decide_eq_true hfull) ⟨nofun, fun hc => absurd rfl hc⟩ nofun fun _ => h0

theorem StateInv.loadRecord {k : Nibble} (hs : s.rxState = .done) (hk : slotInRange k s.actLen = true) :
    StateInv (loadRecord k s) where
  memory := h.memory
  count := h.count
  error := h.error
  length := h.length
  sum := h.sum.congr rfl rfl rfl rfl rfl rfl
  written := h.written
  sync := h.sync
  skip := h.skip
  hold := h.hold
  record := ⟨fun _ => ⟨hs, hk, rfl⟩, nofun⟩

end

/-! ### Every operation, and every step -/

/-- R17: a byte is put into the hold register with `tx_busy`, and the register is emptied to 0. -/
theorem holdFits_of_effect {i : Instr} {s t : State} (e : Effect i s t) (h : holdFits s) : holdFits t := by
  cases e
  case txStart | txEnd | wrTxData => exact nofun
  case txAbort | txTake | softReset | reset => exact fun _ => rfl
  case rxbyteAccum b _ => rw [holdFits, accumulate_txBusy, accumulate_txHold]; exact h
  all_goals exact h

theorem StateInv.of_effect {i : Instr} {s t : State} (h : StateInv s) (e : Effect i s t) : StateInv t := by
  have hh : holdFits t := holdFits_of_effect e h.hold
  cases rxEffect_of_effect e with
  | kept hf _ => exact h.of_sameFrame hf hh
  | dropped b _ _ => exact h.of_sameFrame rfl hh
  | armed len _ _ hl => exact h.armCommon hl
  | cleared => exact h.rxClear
  | expired hs hf _ => exact (h.raiseIncomplete hs).of_sameFrame hf hh
  | syncLost b _ hs => exact h.raiseSync hs
  | skipped b _ hs hm => exact h.skipByte _ hs hm
  | started b _ _ hs hb => exact h.startFrame hs hb
  | stored b _ hs => exact h.accumulate hs
  | recordLoaded k _ hs hk => exact (h.loadRecord hs hk).of_sameFrame rfl hh
  | wasReset => exact resetAll_stateInv s

theorem StateInv.withInputs {s : State} (h : StateInv s) (inputs : List PortCycle) : StateInv { s with inputs := inputs } :=
  h.of_sameFrame rfl h.hold

/-- Settles O58: a step does nothing, ends an edge, or runs one operation, and each outcome of an operation keeps the
invariant. -/
theorem everyStepKeepsTheInvariant : Obligations.EveryStepKeepsTheInvariant := by
  intro s t h hstep
  rcases step_cases s with ⟨-, he⟩ | ⟨c, rest, -, -, he⟩ | ⟨c, rest, e, left, -, -, he⟩ <;> rw [he] at hstep
  · cases hstep; exact h
  · cases hstep; exact h.withInputs rest
  · exact (h.withInputs (left :: rest)).of_effect (effect_of_exec hstep)

end Sys2Proof.Machine
end

section
/-! What the frame buffer's content changes in an operation (10_state.md R16): with the buffer replaced by one that agrees
below `rx_count`, every read is the same and every operation does the same, and the results agree again. -/

namespace Sys2Proof.Machine

/-! ### Two frame buffers that agree below `rx_count` -/

/-- `s` with the frame buffer `m`, and `epoch` as the index of its free content. -/
def withFb (m : Memory) (epoch : Nat) (s : State) : State := { s with fb := m, fbEpoch := epoch }

/-- The frame buffer `m` with free content `epoch` holds the frame of `s`. -/
def holdsFrame (m : Memory) (epoch : Nat) (s : State) : Prop :=
  ∀ i, i < s.rxCount.toNat → fbByte (withFb m epoch s) i = fbByte s i

/-- States that cannot be told apart are one state with two frame buffers. -/
theorem sameVisible_iff {s t : State} : sameVisible s t ↔ ∃ m epoch, t = withFb m epoch s ∧ holdsFrame m epoch s := by
  constructor
  · rintro ⟨ht, hb⟩
    refine ⟨t.fb, t.fbEpoch, ht, fun i hi => ?_⟩
    exact (fbByte_congr rfl rfl i).trans (hb i hi)
  · rintro ⟨m, epoch, rfl, hb⟩
    exact ⟨rfl, hb⟩

theorem holdsFrame.sameVisible {s : State} {m : Memory} {epoch : Nat} (h : holdsFrame m epoch s) :
    sameVisible s (withFb m epoch s) := ⟨rfl, h⟩

section
variable {s : State} {m : Memory} {epoch : Nat} (h : holdsFrame m epoch s)
include h

/-! ### Reads -/

/-- The FB window masks every byte outside the frame (R43). -/
theorem fbMasked_withFb (i : Nat) : fbMasked (withFb m epoch s) i = fbMasked s i :=
  ite_congr rfl (h i) fun _ => rfl

theorem fbWord_withFb (j : BitVec 6) : fbWord (withFb m epoch s) j = fbWord s j := by
  simp only [fbWord, fbMasked_withFb h]

theorem busRead_withFb (addr : WordAddr) : busRead addr (withFb m epoch s) = busRead addr s :=
  ite_congr rfl (fun _ => rfl) fun _ => fbWord_withFb h _

/-! ### Operations -/

/-- A state with the same frame buffer and no longer frame. -/
theorem holdsFrame.of_kept {s' : State} (hf : s'.fb = s.fb) (he : s'.fbEpoch = s.fbEpoch)
    (hc : s'.rxCount.toNat ≤ s.rxCount.toNat) : holdsFrame m epoch s' := fun i hi =>
  calc fbByte (withFb m epoch s') i
      = fbByte (withFb m epoch s) i := fbByte_congr rfl rfl i
    _ = fbByte s i := h i (Nat.lt_of_lt_of_le hi hc)
    _ = fbByte s' i := (fbByte_congr hf he i).symm

theorem sameVisible_of_kept {s' : State} (hf : s'.fb = s.fb) (he : s'.fbEpoch = s.fbEpoch)
    (hc : s'.rxCount.toNat ≤ s.rxCount.toNat) : sameVisible s' (withFb m epoch s') :=
  (h.of_kept hf he hc).sameVisible

/-- A slot inside the payload of a verified frame lies wholly inside the frame (R94). -/
theorem loadRecord_withFb {k : Nibble} (hc : s.rxCount = s.actLen) (hk : slotInRange k s.actLen = true) :
    loadRecord k (withFb m epoch s) = withFb m epoch (loadRecord k s) := by
  have hslot : 10 * k.toNat + 17 ≤ s.rxCount.toNat := by rw [hc]; exact of_decide_eq_true hk
  have hbyte : ∀ j, j < 10 → fbByte (withFb m epoch s) (slotBase k + j) = fbByte s (slotBase k + j) := fun j hj =>
    h _ (by simp only [slotBase, Config.recBase, Config.recSize]; omega)
  simp only [loadRecord, hbyte, Nat.reduceLT]
  rfl

end

/-- Two frame buffers that agree below an index agree below the next one after the same byte is written at it. -/
theorem fbByte_insert_agree {s s' : State} {m : Memory} {epoch n : Nat} {b : Byte} (hf : s'.fb = fbInsert n b s.fb)
    (he : s'.fbEpoch = s.fbEpoch) (h : ∀ i, i < n → fbByte (withFb m epoch s) i = fbByte s i) (i : Nat) (hi : i < n + 1) :
    fbByte (withFb (fbInsert n b m) epoch s') i = fbByte s' i := by
  by_cases hin : i = n
  · subst hin
    exact (fbByte_of_insert_same rfl).trans (fbByte_of_insert_same hf).symm
  · calc fbByte (withFb (fbInsert n b m) epoch s') i
        = fbByte (withFb m epoch s) i := fbByte_of_insert_other rfl rfl hin
      _ = fbByte s i := h i (by omega)
      _ = fbByte s' i := (fbByte_of_insert_other hf he hin).symm

theorem holdsFrame_startFrame (m : Memory) (epoch : Nat) (b : Byte) (s : State) :
    holdsFrame (fbInsert 0 b m) epoch (startFrame b s) :=
  fbByte_insert_agree (startFrame_fb b s) rfl nofun

theorem accumulate_withFb (m : Memory) (epoch : Nat) (b : Byte) (s : State) :
    accumulate b (withFb m epoch s) = withFb (fbInsert (fbNext s) b m) epoch (accumulate b s) :=
  accumulate_alike rfl rfl rfl rfl rfl rfl fun _ _ _ _ => rfl

theorem accumulate_rxCount_toNat_le (b : Byte) (s : State) : (accumulate b s).rxCount.toNat ≤ s.rxCount.toNat + 1 := by
  rw [accumulate_rxCount]
  exact Nat.le_trans (Nat.le_of_eq (BitVec.toNat_ofNat _ 8)) (Nat.mod_le _ _)

theorem holdsFrame.accumulate {m : Memory} {epoch : Nat} {s : State} (h : holdsFrame m epoch s) (b : Byte) :
    holdsFrame (fbInsert (fbNext s) b m) epoch (accumulate b s) := fun i hi =>
  fbByte_insert_agree (accumulate_fb b s) (accumulate_fbEpoch b s) h i
    (Nat.lt_of_lt_of_le hi (accumulate_rxCount_toNat_le b s))

/-- An operation has the same outcome with either frame buffer, and the two results cannot be told apart. -/
theorem effect_withFb {i : Instr} {s s' : State} {m : Memory} {epoch : Nat} (hs : StateInv s) (h : holdsFrame m epoch s)
    (e : Effect i s s') : ∃ t', Effect i (withFb m epoch s) t' ∧ sameVisible s' t' := by
  cases e
  case rdFb j =>
    refine ⟨withFb m epoch (returnWord (fbWord s j) s), ?_, sameVisible_of_kept h rfl rfl (Nat.le_refl _)⟩
    rw [← fbWord_withFb h j]
    exact .rdFb j (withFb m epoch s)
  case decode k hd hk =>
    have hc : s.rxCount = s.actLen := by simpa [countFits, hd] using hs.count
    refine ⟨withFb m epoch (commandOk (loadRecord k s)), ?_, sameVisible_of_kept h rfl rfl (Nat.le_refl _)⟩
    have e : Effect (.decode k) (withFb m epoch s) (commandOk (loadRecord k (withFb m epoch s))) := .decode k _ hd hk
    rwa [loadRecord_withFb h hc hk] at e
  case softReset => exact ⟨_, .softReset _, rfl, fun i hi => absurd hi (Nat.not_lt_zero i)⟩
  case reset => exact ⟨_, .reset _, rfl, fun i hi => absurd hi (Nat.not_lt_zero i)⟩
  case rxbyteHuntNone b hh hm =>
    exact ⟨_, .rxbyteHuntNone b (withFb m epoch s) hh hm, (holdsFrame_startFrame m epoch b s).sameVisible⟩
  case rxbyteHuntStrict hh hm =>
    exact ⟨_, .rxbyteHuntStrict (withFb m epoch s) hh hm, (holdsFrame_startFrame m epoch Config.sync s).sameVisible⟩
  case rxbyteHuntHunt hh hm =>
    exact ⟨_, .rxbyteHuntHunt (withFb m epoch s) hh hm, (holdsFrame_startFrame m epoch Config.sync s).sameVisible⟩
  case rxbyteAccum b hh =>
    refine ⟨_, .rxbyteAccum b (withFb m epoch s) hh, ?_⟩
    rw [accumulate_withFb]
    exact (h.accumulate b).sameVisible
  case rxArm hl => exact ⟨_, .rxArm (withFb m epoch s) hl, sameVisible_of_kept h rfl rfl (Nat.zero_le _)⟩
  case rxArmOp a len hr hl => exact ⟨_, .rxArmOp a len (withFb m epoch s) hr hl, sameVisible_of_kept h rfl rfl (Nat.zero_le _)⟩
  case rxClear => exact ⟨_, .rxClear (withFb m epoch s), sameVisible_of_kept h rfl rfl (Nat.zero_le _)⟩
  case wrCtrlKept v hv => exact ⟨_, .wrCtrlKept v (withFb m epoch s) hv, h.sameVisible⟩
  -- No other operation reads or writes FB, or lengthens the frame.
  all_goals
    refine ⟨withFb m epoch _, ?_, sameVisible_of_kept h rfl rfl (Nat.le_refl _)⟩
    constructor <;> assumption

theorem step_of_no_edge {s : State} (hi : s.inputs = []) : step s = .next s := by
  simp [step, fetch, hi]

theorem step_of_edge_over {s : State} {c : PortCycle} {rest : List PortCycle} (hi : s.inputs = c :: rest)
    (hn : nextEvent c s = none) : step s = .next { s with inputs := rest } := by
  simp [step, fetch, hi, hn]

/-- Settles O60: reads are masked to the frame, no output depends on FB, and an operation has the same outcome with either
frame buffer. -/
theorem unwrittenFrameBufferIsNeverObservable : Obligations.UnwrittenFrameBufferIsNeverObservable := by
  intro s t hs hv
  obtain ⟨m, epoch, rfl, h⟩ := sameVisible_iff.1 hv
  refine ⟨busRead_withFb h, rfl, rfl, rfl, fun s' hstep => ?_⟩
  rcases step_cases s with ⟨hi, he⟩ | ⟨c, rest, hi, hn, he⟩ | ⟨c, rest, e, left, hi, hn, he⟩ <;> rw [he] at hstep
  · cases hstep
    exact ⟨withFb m epoch s, step_of_no_edge hi, h.sameVisible⟩
  · cases hstep
    exact ⟨withFb m epoch { s with inputs := rest }, step_of_edge_over hi hn, sameVisible_of_kept h rfl rfl (Nat.le_refl _)⟩
  · have hsame : holdsFrame m epoch { s with inputs := left :: rest } := h.of_kept rfl rfl (Nat.le_refl _)
    obtain ⟨t', het, hv'⟩ := effect_withFb (hs.withInputs _) hsame (effect_of_exec hstep)
    exact ⟨t', (step_of_nextEvent (s := withFb m epoch s) hi hn).trans (exec_of_effect het), hv'⟩

end Sys2Proof.Machine
end

section
/-! What operations leave unchanged: the latched configuration (R11, R131), `cmd_err` (R20), the frame buffer (R16) and the
drop flag (R15). -/

namespace Sys2Proof.Machine

/-! ### The latched length and mode (R11, R131) -/

/-- An operation other than an arm or a reset keeps the latched length and mode. -/
theorem latch_kept_or_rearmed_or_reset {i : Instr} {s t : State} (e : RxEffect i s t) :
    (t.actLen = s.actLen ∧ t.actMode = s.actMode) ∨ i = .rxArm ∨ (∃ a, i = .rxArmOp a) ∨ i = .softReset ∨ i = .reset := by
  cases e with
  | kept h _ => exact .inl ⟨h.actLen, h.actMode⟩
  | expired _ h _ => exact .inl ⟨h.actLen, h.actMode⟩
  | stored b _ _ => exact .inl ⟨accumulate_actLen b s, accumulate_actMode b s⟩
  | armed len _ hi _ => exact .inr (hi.imp_right .inl)
  | wasReset _ hi => exact .inr (.inr (.inr hi))
  | dropped | cleared | syncLost | skipped | started | recordLoaded => exact .inl ⟨rfl, rfl⟩

/-- `s` with other values in CTRL and RX_LEN, which take effect at the next arm (R11). -/
def withConfig (m : SyncMode) (len : Byte) (s : State) : State := { s with syncMode := m, rxLen := len }

theorem accumulate_withConfig (m : SyncMode) (len b : Byte) (s : State) :
    accumulate b (withConfig m len s) = withConfig m len (accumulate b s) :=
  accumulate_alike rfl rfl rfl rfl rfl rfl fun _ _ _ _ => rfl

/-- No port event but RESET reads or writes `sync_mode` and `rx_len`. -/
theorem effect_withConfig {i : Instr} {s t : State} (m : SyncMode) (len : Byte) (hp : i.format = .port) (hr : i ≠ .reset)
    (e : Effect i s t) : Effect i (withConfig m len s) (withConfig m len t) := by
  cases e
  case rxbyteDrop b h => exact .rxbyteDrop b (withConfig m len s) h
  case rxbyteHuntNone b h hm => exact .rxbyteHuntNone b (withConfig m len s) h hm
  case rxbyteHuntStrict h hm => exact .rxbyteHuntStrict (withConfig m len s) h hm
  case rxbyteHuntStrictBad b hb h hm => exact .rxbyteHuntStrictBad b (withConfig m len s) h hm hb
  case rxbyteHuntHunt h hm => exact .rxbyteHuntHunt (withConfig m len s) h hm
  case rxbyteHuntHuntSkip b hb h hm => exact .rxbyteHuntHuntSkip b (withConfig m len s) h hm hb
  case rxbyteAccum b h =>
    rw [← accumulate_withConfig]
    exact .rxbyteAccum b (withConfig m len s) h
  case txTake h => exact .txTake (withConfig m len s) h
  case rxTimeoutEvt h => exact .rxTimeoutEvt (withConfig m len s) h
  case rxTimeoutEvtKept h h' => exact .rxTimeoutEvtKept (withConfig m len s) h h'
  case reset => exact absurd rfl hr
  all_goals cases hp

/-- Settles O30, by what an operation does to the receiver, and by the port events one by one. -/
theorem latchedConfigurationIsReadUntilNextArm : Obligations.LatchedConfigurationIsReadUntilNextArm := by
  refine ⟨fun i s t h hne => ?_, fun i s t m len hp hr h => ?_⟩
  · rcases latch_kept_or_rearmed_or_reset (rxEffect_of_exec h) with ⟨hl, hm⟩ | hi
    · exact absurd hne (not_or.2 ⟨not_not.2 hl, not_not.2 hm⟩)
    · exact hi
  · exact exec_of_effect (effect_withConfig m len hp hr (effect_of_exec h))

/-! ### The command result (R20) -/

/-- The writes that report a result in `cmd_err` (R20). -/
def reportsResult (i : Instr) : Prop := i.format = .cmd ∨ (∃ v, i = .wrTxData v) ∨ (∃ v, i = .wrCkData v)

theorem cmdErr_kept_or_reports {i : Instr} {s t : State} (e : Effect i s t) :
    t.cmdErr = s.cmdErr ∨ reportsResult i ∨ i = .reset := by
  cases e
  case wrCtrl | wrCtrlKept | wrRxLen | wrIntPend | wrIntEn | wrIgnored | rdReg | rdCkInfo | rdFb | rxbyteDrop
    | rxbyteHuntNone | rxbyteHuntStrict | rxbyteHuntStrictBad | rxbyteHuntHunt | rxbyteHuntHuntSkip | txTake
    | rxTimeoutEvt | rxTimeoutEvtKept => exact .inl rfl
  case rxbyteAccum b _ => exact .inl (accumulate_cmdErr b s)
  case wrTxData v _ _ | wrTxDataSeq v _ | wrTxDataOverrun v _ _ => exact .inr (.inl (.inr (.inl ⟨v, rfl⟩)))
  case wrCkData v => exact .inr (.inl (.inr (.inr ⟨v, rfl⟩)))
  case reset => exact .inr (.inr rfl)
  all_goals exact .inr (.inl (.inl rfl))

/-- A reporting write replaces `cmd_err`, and no such write reads it. -/
theorem effect_of_other_cmdErr {i : Instr} {s t : State} (c : CmdErr) (hi : reportsResult i) (e : Effect i s t) :
    Effect i { s with cmdErr := c } t := by
  cases e
  case wrCtrl | wrCtrlKept | wrRxLen | wrIntPend | wrIntEn | wrIgnored | rdReg | rdCkInfo | rdFb | rxbyteDrop
    | rxbyteHuntNone | rxbyteHuntStrict | rxbyteHuntStrictBad | rxbyteHuntHunt | rxbyteHuntHuntSkip | rxbyteAccum | txTake
    | rxTimeoutEvt | rxTimeoutEvtKept | reset => simp [reportsResult, Instr.format] at hi
  -- Every other outcome writes `cmd_err` and has no guard on it.
  all_goals constructor <;> assumption

/-- Settles O48: an outcome of an operation either keeps `cmd_err` or is a reporting write's, which writes it. -/
theorem commandResultIsWrittenByCommandsOnly : Obligations.CommandResultIsWrittenByCommandsOnly := by
  refine ⟨fun i s t h hne => ?_, fun i s t c hi h => ?_⟩
  · rcases cmdErr_kept_or_reports (effect_of_exec h) with hk | (hc | hd | hk) | hr
    · exact absurd hk hne
    · exact .inl hc
    · exact .inr (.inl hd)
    · exact .inr (.inr (.inl hk))
    · exact .inr (.inr (.inr hr))
  · exact exec_of_effect (effect_of_other_cmdErr c hi (effect_of_exec h))

/-! ### The frame buffer (R16) -/

/-- Settles O50: only the two ways of storing a byte change FB, each at its own index. -/
theorem onlyTheReceiverWritesFrameBuffer : Obligations.OnlyTheReceiverWritesFrameBuffer := by
  intro i s t h hsoft hreset j haccum hfirst
  cases rxEffect_of_exec h with
  | kept hf _ => exact hf.fbByte j
  | expired _ hf _ => exact hf.fbByte j
  | started b _ hi _ _ => exact fbByte_of_insert_other (startFrame_fb b s) rfl (hfirst b hi)
  | stored b _ _ => exact fbByte_of_insert_other (accumulate_fb b s) (accumulate_fbEpoch b s) (haccum b rfl)
  | wasReset _ hi => exact absurd hi (not_or.2 ⟨hsoft, hreset⟩)
  | dropped | armed | cleared | syncLost | skipped | recordLoaded => exact fbByte_congr rfl rfl j

/-! ### The drop flag (R15) -/

/-- The operations that clear the drop flag (R15). -/
def clearsDrop (i : Instr) : Prop :=
  i = .rxArm ∨ (∃ a, i = .rxArmOp a) ∨ i = .rxClear ∨ i = .softReset ∨ i = .reset

/-- The drop flag is kept, set by a byte outside a frame, or cleared by one of the named operations (R15). -/
theorem rxDrop_cases {i : Instr} {s t : State} (e : RxEffect i s t) :
    t.rxDrop = s.rxDrop ∨
    (t.rxDrop = true ∧ (∃ b, i = .rxbyteDrop b) ∧ (s.rxState = .idle ∨ s.rxState = .done ∨ s.rxState = .error)) ∨
    (t.rxDrop = false ∧ clearsDrop i) := by
  cases e with
  | kept _ hd => exact .inl hd
  | expired _ _ hd => exact .inl hd
  | dropped b _ hs => exact .inr (.inl ⟨rfl, ⟨b, rfl⟩, hs⟩)
  | armed len _ hi _ => exact .inr (.inr ⟨rfl, hi.imp_right .inl⟩)
  | cleared => exact .inr (.inr ⟨rfl, .inr (.inr (.inl rfl))⟩)
  | wasReset _ hi => exact .inr (.inr ⟨rfl, .inr (.inr (.inr hi))⟩)
  | stored b _ _ => exact .inl (accumulate_rxDrop b s)
  | syncLost | skipped | started | recordLoaded => exact .inl rfl

/-- Each of the operations that clear the drop flag clears it unless it reports an error (R15). -/
theorem rxDrop_of_clearsDrop {i : Instr} {s t : State} (e : Effect i s t) (hi : clearsDrop i) (hok : t.cmdErr = .ok) :
    t.rxDrop = false := by
  rcases hi with rfl | ⟨a, rfl⟩ | rfl | rfl | rfl <;> cases e
  case rxArmBad | rxArmOpBad => cases hok
  all_goals rfl

/-- Settles O51: the three things that can become of the flag, and the success of the operations that clear it. -/
theorem dropFlagIsSticky : Obligations.DropFlagIsSticky := by
  intro i s t h
  have e := effect_of_exec h
  refine ⟨?_, fun hs ht => ?_, fun hs ht => ?_, fun hi hok => rxDrop_of_clearsDrop e hi hok⟩
  · rintro ⟨b, rfl⟩
    cases e; rfl
  · rcases rxDrop_cases (rxEffect_of_effect e) with hk | ⟨-, hset⟩ | ⟨hc, -⟩
    · exact absurd (ht.symm.trans (hk.trans hs)) nofun
    · exact hset
    · exact absurd (ht.symm.trans hc) nofun
  · rcases rxDrop_cases (rxEffect_of_effect e) with hk | ⟨hset, -⟩ | ⟨-, hi⟩
    · exact absurd (ht.symm.trans (hk.trans hs)) nofun
    · exact absurd (hset.symm.trans ht) nofun
    · exact hi

end Sys2Proof.Machine
end

section
/-! The words a host read composes, as numbers (10_state.md R22 to R37, 44_control.md R104): each register is the sum of its
fields, each times the power of two of its lowest bit. -/

namespace Sys2Proof.Machine

/-- Below the FB window a read answers a register (R104). -/
theorem busRead_of_lt {addr : WordAddr} (h : addr.toNat < 0x40) (s : State) : busRead addr s = readReg addr s := if_pos h

/-- An offset after ID is reserved and reads 0 (R37). -/
theorem readReg_of_reserved {addr : WordAddr} (h : 0x0F ≤ addr.toNat) (s : State) : readReg addr s = 0 := by
  unfold readReg
  split
  case h_13 => rfl
  all_goals omega

/-- STATUS (R24). -/
theorem regStatus_toNat (s : State) : (regStatus s).toNat = (rxStateCode s.rxState).toNat + 16 * (rxErrCode s.rxErr).toNat
    + 256 * s.txOpen.toNat + 512 * s.txBusy.toNat + 1024 * s.recValid.toNat + 2048 * s.rxDrop.toNat
    + 4096 * (syncCode s.actMode).toNat + 65536 * (cmdErrCode s.cmdErr).toNat + 16777216 * s.recIdx.toNat := by
  simp only [regStatus, append_toNat, BitVec.toNat_ofBool, BitVec.ofNat_eq_ofNat, BitVec.toNat_zero]
  omega

/-- RX_INFO (R26). -/
theorem regRxInfo_toNat (s : State) : (regRxInfo s).toNat =
    s.rxCount.toNat + 2 ^ 8 * s.actLen.toNat + 2 ^ 16 * s.rxSum.toNat + 2 ^ 24 * s.rxSkip.toNat := by
  simp only [regRxInfo, append_toNat]
  omega

/-- TX_INFO (R28). -/
theorem regTxInfo_toNat (s : State) : (regTxInfo s).toNat =
    s.txSum.toNat + 2 ^ 8 * s.txCnt.toNat + 2 ^ 16 * s.txHold.toNat := by
  simp only [regTxInfo, append_toNat, BitVec.ofNat_eq_ofNat, BitVec.toNat_zero]
  omega

/-- REC_A (R33). -/
theorem regRecA_toNat (s : State) : (regRecA s).toNat =
    s.recSec.toNat + 2 ^ 8 * s.recMin.toNat + 2 ^ 16 * s.recHour.toNat + 2 ^ 24 * s.recDay.toNat := by
  simp only [regRecA, append_toNat, BitVec.ofNat_eq_ofNat, BitVec.toNat_zero]
  omega

/-- REC_B (R34). -/
theorem regRecB_toNat (s : State) : (regRecB s).toNat =
    s.recMon.toNat + 2 ^ 8 * s.recDow.toNat + 2 ^ 16 * s.recYear.toNat := by
  simp only [regRecB, append_toNat, BitVec.ofNat_eq_ofNat, BitVec.toNat_zero]
  omega

/-- A field at the low end of a register whose other bits are reserved (R25, R31, R32). -/
theorem zero_append_toNat {n m : Nat} (x : BitVec m) : ((0 : BitVec n) ++ x).toNat = x.toNat := by
  rw [append_toNat]; simp

/-- Settles O42: the codes by their tables, STATUS as the sum of its fields. -/
theorem statusBitsAreAtTheirPlaces : Obligations.StatusBitsAreAtTheirPlaces :=
  ⟨by decide, by decide, by decide, by decide, regStatus_toNat⟩

/-- Settles O43, register by register. -/
theorem infoAndRecordRegistersAreComposed : Obligations.InfoAndRecordRegistersAreComposed := by
  intro s
  refine ⟨regRxInfo_toNat s, regTxInfo_toNat s, regRecA_toNat s, regRecB_toNat s, rfl, ?_,
    zero_append_toNat s.rxLen, zero_append_toNat s.intPend, zero_append_toNat s.intEn, rfl, rfl, rfl, rfl, fun addr hlo hhi => ?_⟩
  · show regCtrl s = _
    unfold regCtrl
    cases s.syncMode <;> rfl
  · rw [busRead_of_lt hhi, readReg_of_reserved hlo]

end Sys2Proof.Machine
end

section
/-! The FB window (20_memory.md R43): the byte lanes of a word read there, and what the read does. -/

namespace Sys2Proof.Machine

/-- A masked byte as a number: 0 at or above `rx_count` (R43). -/
theorem fbMasked_toNat (s : State) (i : Nat) :
    (fbMasked s i).toNat = if i < s.rxCount.toNat then (fbByte s i).toNat else 0 :=
  apply_ite BitVec.toNat _ _ _

/-- Byte lane `k` of the window's word `j` is the masked byte `4j + k` (R43, R45). -/
theorem fbWord_lane (s : State) (j : BitVec 6) {k : Nat} (hk : k < 4) :
    (fbWord s j).toNat / 256 ^ k % 256 = (fbMasked s (4 * j.toNat + k)).toNat := by
  have hlt (i : Nat) : (fbMasked s i).toNat < 256 := (fbMasked s i).isLt
  have h0 := hlt (4 * j.toNat)
  have h1 := hlt (4 * j.toNat + 1)
  have h2 := hlt (4 * j.toNat + 2)
  have h3 := hlt (4 * j.toNat + 3)
  rw [fbWord, packBytes_toNat]
  obtain rfl | rfl | rfl | rfl : k = 0 ∨ k = 1 ∨ k = 2 ∨ k = 3 := by omega
  · rw [pow_zero, Nat.div_one]
    show _ = (fbMasked s (4 * j.toNat)).toNat
    omega
  all_goals omega

/-- The bus address of the window's word `j` is a one in front of the index (R43). -/
theorem ofNat_fbAddr (j : BitVec 6) : BitVec.ofNat 7 (0x40 + j.toNat) = (1 : BitVec 1) ++ j := by
  rw [← fbAddr_toNat, BitVec.ofNat_toNat]
  exact BitVec.setWidth_eq _

/-- Settles O41: the address decodes to the window's word, and the lanes of that word are the masked bytes. -/
theorem frameBufferWindowPacksMaskedBytes : Obligations.FrameBufferWindowPacksMaskedBytes := by
  intro j s
  refine ⟨?_, fbWord s j, exec_of_effect (.rdFb j s), fun k hk => ?_⟩
  · rw [ofNat_fbAddr]
    exact decodeRead_fbAddr j
  · rw [fbWord_lane s j hk, fbMasked_toNat]

end Sys2Proof.Machine
end

section
/-! The control-register writes (44_control.md R100 to R103): a second write of the same value changes nothing more. -/

namespace Sys2Proof.Machine

/-- Clearing the same pending bits again changes nothing (R103). -/
@[simp] theorem clearPend_clearPend (c : Nibble) (s : State) : clearPend c (clearPend c s) = clearPend c s := by
  simp only [clearPend, BitVec.and_assoc, BitVec.and_self]

/-- Settles O44, by the outcomes of the four writes: a field keeps the value just stored in it, a refused CTRL value is
refused again, and cleared bits stay clear. -/
theorem controlWritesAreIdempotent : Obligations.ControlWritesAreIdempotent := by
  intro v i s t hi h
  apply exec_of_effect
  rcases hi with rfl | rfl | rfl | rfl <;> cases effect_of_exec h
  case wrCtrl m hm => exact .wrCtrl v m _ hm
  case wrCtrlKept hm => exact .wrCtrlKept v s hm
  case wrRxLen => exact .wrRxLen v _
  case wrIntEn => exact .wrIntEn v _
  case wrIntPend => simpa only [clearPend_clearPend] using Effect.wrIntPend v (clearPend (lowNibble v) s)

end Sys2Proof.Machine
end

section
/-! Which CMD words are reserved or malformed, and what they report (30_encoding.md R58, R59). -/

namespace Sys2Proof

/-- The reserved opcodes, as numbers (R56). -/
theorem opReserved_iff {op : Nibble} : opReserved op = true ↔ 0xA ≤ op.toNat ∧ op.toNat ≤ 0xE := by
  simp [opReserved]

/-- The `A` fields that a defined opcode does not allow, as numbers (R57, R58). -/
theorem argAllowed_eq_false_iff {op a : Nibble} (hop : opReserved op = false) : argAllowed op a = false ↔
    (op.toNat ∈ [0x0, 0x1, 0x3, 0x4, 0x5, 0x6, 0x7, 0x8] ∧ a.toNat ≠ 0) ∨ (op.toNat = 0xF ∧ a.toNat ≠ 0xF) := by
  revert op a; decide

/-- A word of no RESERVED row is malformed by its `Z` or by its `A` (R58). -/
theorem malformedCmd_iff {z : BitVec 24} {a op : Nibble} (hop : opReserved op = false) :
    malformedCmd z a op = true ↔ z ≠ 0 ∨ argAllowed op a = false := by
  simp [malformedCmd, hop]

/-- RX_ARM_OP's row has every word with its opcode and `Z = 0`, whatever `A` is (R58, R81). -/
theorem decodeCmd_cmdWord_rxArmOp (a : Nibble) : decodeCmd (cmdWord 0 a 0x2) = .rxArmOp a :=
  decodeCmd_cmdWord 0 a 0x2

namespace Machine

/-- Settles O6, row by row. -/
theorem reservedRowsReportBadCmd : Obligations.ReservedRowsReportBadCmd := fun z a op s =>
  ⟨exec_of_effect (.reservedA z a s), exec_of_effect (.reservedB z a s), exec_of_effect (.reservedC z a s),
    exec_of_effect (.reservedD z a s), exec_of_effect (.reservedE z a s), exec_of_effect (.cmdNonzeroZ z a op s)⟩

theorem exec_decodeReservedCmd (z : BitVec 24) (a op : Nibble) (s : State) :
    exec (decodeReservedCmd z a op) s = .next (raiseCmdError .badCmd s) := by
  obtain ⟨hA, hB, hC, hD, hE, -⟩ := reservedRowsReportBadCmd z a op s
  unfold decodeReservedCmd
  split <;> assumption

/-- A CMD word of a RESERVED row and a malformed one report BAD_CMD (R58, R59). -/
theorem reportsBadCmd_of_fields {v : Word}
    (h : opReserved (cmdOp v) = true ∨ malformedCmd (cmdZ v) (cmdA v) (cmdOp v) = true) : reportsBadCmd v := by
  intro s
  show exec (decodeCmd v) s = .next (raiseCmdError .badCmd s)
  cases hop : opReserved (cmdOp v) with
  | true => rw [decodeCmd, if_pos hop, exec_decodeReservedCmd]
  | false =>
    have hm : malformedCmd (cmdZ v) (cmdA v) (cmdOp v) = true := h.resolve_left (by simp [hop])
    rw [decodeCmd, if_neg (by simp [hop]), if_pos hm]
    exact exec_of_effect (.cmdNonzeroZ _ _ _ s)

/-- The same, with the fields read off the number of the word (R55, R58). -/
theorem reportsBadCmd_of_toNat {v : Word}
    (h : v.toNat / 256 ≠ 0 ∨ (0xA ≤ v.toNat % 16 ∧ v.toNat % 16 ≤ 0xE) ∨
      (v.toNat % 16 ∈ [0x0, 0x1, 0x3, 0x4, 0x5, 0x6, 0x7, 0x8] ∧ v.toNat / 16 % 16 ≠ 0) ∨
      (v.toNat % 16 = 0xF ∧ v.toNat / 16 % 16 ≠ 0xF)) : reportsBadCmd v := by
  rw [← cmdZ_toNat, ← cmdA_toNat, ← cmdOp_toNat, ← opReserved_iff] at h
  apply reportsBadCmd_of_fields
  cases hop : opReserved (cmdOp v) with
  | true => exact .inl rfl
  | false =>
    refine .inr ((malformedCmd_iff hop).2 ?_)
    rw [argAllowed_eq_false_iff hop]
    rcases h with hz | hr | ha
    · exact .inl fun h0 => hz (by simp [h0])
    · exact absurd hr (by simp [hop])
    · exact .inr ha

/-- A word of RX_ARM_OP's opcode with `Z = 0` is the word of RX_ARM_OP with its `A` (R55, R56). -/
theorem eq_cmdWord_rxArmOp {v : Word} (hz : v.toNat / 256 = 0) (hop : v.toNat % 16 = 0x2) : v = cmdWord 0 (cmdA v) 0x2 := by
  have hz' : cmdZ v = 0 := BitVec.eq_of_toNat_eq ((cmdZ_toNat v).trans hz)
  have hop' : cmdOp v = 0x2 := BitVec.eq_of_toNat_eq ((cmdOp_toNat v).trans hop)
  simpa only [hz', hop'] using (cmdWord_fields v).symm

/-- RX_ARM_OP with an index after the last entry of LEN_ROM reports BAD_ARG (R58, R81). -/
theorem exec_rxArmOp_of_no_entry {a : Nibble} (ha : 9 ≤ a.toNat) (s : State) :
    exec (.rxArmOp a) s = .next (raiseCmdError .badArg s) := by
  rcases lenRom_cases a with ⟨len, -, hle, -⟩ | ⟨hnone, -⟩
  · omega
  · exact exec_of_effect (.rxArmOpBad a s hnone)

/-- Settles O5: a reserved or malformed word is a row's that reports BAD_CMD, and RX_ARM_OP's words are all its own row's. -/
theorem reservedAndMalformedCommandWordsOnlyReport : Obligations.ReservedAndMalformedCommandWordsOnlyReport := by
  refine fun v s => ⟨fun h => reportsBadCmd_of_toNat h s, fun ⟨hz, hop, ha⟩ => ?_⟩
  have hd : decodeCmd v = .rxArmOp (cmdA v) :=
    (congrArg decodeCmd (eq_cmdWord_rxArmOp hz hop)).trans (decodeCmd_cmdWord_rxArmOp (cmdA v))
  show exec (decodeCmd v) s = .next (raiseCmdError .badArg s)
  rw [hd]
  exact exec_rxArmOp_of_no_entry ((cmdA_toNat v).symm ▸ ha) s

end Machine

end Sys2Proof
end

section
/-! A reporting write succeeds or only reports (30_encoding.md R59, 60_exceptions.md R111, R118). -/

namespace Sys2Proof.Machine

/-- A receive error leaves CMD_ERR's pending bit alone (R112, R113). -/
theorem raiseRxError_pendCmdErr (e : RxErr) (s : State) :
    (raiseRxError e s).intPend.getLsbD 3 = s.intPend.getLsbD 3 := by
  rw [raiseRxError_intPend, BitVec.getLsbD_or, show pendRxErr.getLsbD 3 = false from rfl, Bool.or_false]

/-- Each outcome of a reporting write but SOFT_RESET is a success, which leaves CMD_ERR's pending bit alone, or a command
error and nothing else (R59, R111). -/
theorem succeeds_or_raises {i : Instr} {s t : State} (hi : reportsResult i) (hne : i ≠ .softReset) (e : Effect i s t) :
    (t.cmdErr = .ok ∧ t.intPend.getLsbD 3 = s.intPend.getLsbD 3) ∨ (t.cmdErr ≠ .ok ∧ t = raiseCmdError t.cmdErr s) := by
  cases e
  case softReset => exact absurd rfl hne
  case rxTimeoutCmd => exact .inl ⟨rfl, raiseRxError_pendCmdErr .incomplete (commandOk s)⟩
  case nop | rxArm | rxArmOp | rxClear | rxTimeoutCmdKept | txStart | txEnd | txAbort | ckClear | decode | wrTxData
    | wrCkData => exact .inl ⟨rfl, rfl⟩
  case rxArmBad | rxArmOpBad | txStartSeq | txStartOverrun | txEndSeq | txEndOverrun | decodeUnverified | decodeRange
    | reservedA | reservedB | reservedC | reservedD | reservedE | cmdNonzeroZ | wrTxDataSeq | wrTxDataOverrun =>
    exact .inr ⟨nofun, rfl⟩
  -- The other rows report no result.
  all_goals simp [reportsResult, Instr.format] at hi

/-- A reporting write is a host's, so it has a meaning in every state (R107). -/
theorem exec_answers_of_reportsResult {i : Instr} (hi : reportsResult i) (s : State) : ∃ t, exec i s = .next t := by
  have hp : i.format ≠ .port := by
    rcases hi with hc | ⟨v, rfl⟩ | ⟨v, rfl⟩
    · rw [hc]; nofun
    all_goals nofun
  refine exec_answers (selectedBy_of_format_ne_port hp _ _) fun htake => ?_
  exact absurd (congrArg Instr.format htake) hp

/-- Settles O7: a reporting write always answers, and its outcomes are successes and command errors. -/
theorem commandWritesSucceedOrOnlyReport : Obligations.CommandWritesSucceedOrOnlyReport := by
  intro i s hi hne
  obtain ⟨t, ht⟩ := exec_answers_of_reportsResult hi s
  refine ⟨t, ht, (succeeds_or_raises hi hne (effect_of_exec ht)).imp_right fun ⟨herr, hraise⟩ => ⟨herr, ?_⟩⟩
  exact hraise.trans (raiseCmdError_eq t.cmdErr s)

end Sys2Proof.Machine
end

section
/-! The checksum function (40_checksum.md R65, R66, R70): `sum8` is the sum of the list in the bytes mod 256 and `neg8` the
negation there, so the properties of a sum of a list and of a negative carry over. -/

namespace Sys2Proof.Machine

/-- R5: `neg8` is the negation of a byte. -/
theorem neg8_eq_neg (s : Byte) : neg8 s = -s := rfl

theorem sum8_eq_sum (bs : List Byte) : sum8 bs = bs.sum := by
  induction bs with
  | nil => rfl
  | cons b bs ih => rw [sum8_cons, List.sum_cons, ih]

theorem sum8_append (bs cs : List Byte) : sum8 (bs ++ cs) = sum8 bs + sum8 cs := by
  simp only [sum8_eq_sum, List.sum_append]

theorem sum8_perm {bs cs : List Byte} (h : bs.Perm cs) : sum8 bs = sum8 cs := by
  simpa only [sum8_eq_sum] using h.sum_eq

/-- One byte of a sequence adds itself to the sum of the others, wherever it stands. -/
theorem sum8_insert (front back : List Byte) (b : Byte) : sum8 (front ++ b :: back) = b + sum8 (front ++ back) :=
  sum8_perm List.perm_middle

/-- The frame's bytes sum to 0 exactly when its last byte is the checksum of the rest (R65, R66). -/
theorem sum8_concat_eq_zero_iff (body : List Byte) (last : Byte) : sum8 (body ++ [last]) = 0 ↔ checksum body = last := by
  rw [sum8_concat, add_eq_zero_iff_neg_eq, checksum, neg8_eq_neg]

/-- Settles O8: the appended byte is the one that `sum8_concat_eq_zero_iff` asks for. -/
theorem appendedChecksumMakesSumZero : Obligations.AppendedChecksumMakesSumZero := fun bs =>
  (sum8_concat_eq_zero_iff bs (checksum bs)).2 rfl

/-- Settles O9: `verify_frame` tests the right side of `sum8_concat_eq_zero_iff`. -/
theorem frameValidExactlyWhenSumIsZero : Obligations.FrameValidExactlyWhenSumIsZero := fun body last =>
  beq_iff_eq.trans (sum8_concat_eq_zero_iff body last).symm

/-- Settles O10. -/
theorem sumIsIncrementalAndIgnoresOrder : Obligations.SumIsIncrementalAndIgnoresOrder :=
  ⟨sum8_concat, fun _ _ => sum8_perm⟩

/-- Settles O11: the other bytes' sum fixes the one byte that makes the whole sum 0, and a 0 adds nothing. -/
theorem oneChangedByteIsDetected : Obligations.OneChangedByteIsDetected := by
  intro front back b c
  simp only [sum8_insert]
  refine ⟨fun hb hne hc => hne ?_, zero_add _⟩
  exact add_right_cancel (hb.trans hc.symm)

end Sys2Proof.Machine
end

section
/-! Commands of one word (30_encoding.md R56 to R58): an opcode that allows one `A` alone has one CMD word that is not
BAD_CMD. -/

namespace Sys2Proof.Machine

/-- A defined opcode's word is well-formed exactly when it has `Z = 0` and an allowed `A` (R58). -/
theorem malformedCmd_eq_false_iff {z : BitVec 24} {a op : Nibble} (hop : opReserved op = false) :
    malformedCmd z a op = false ↔ z = 0 ∧ argAllowed op a = true := by
  rw [← Bool.not_eq_true, malformedCmd_iff hop, not_or, not_not, Bool.not_eq_false]

/-- The word with the one `A` allowed reads as the opcode's command, and every other word of the opcode is BAD_CMD. -/
theorem onlyCmdWord_of_argAllowed_iff {op a : Nibble} (hop : opReserved op = false)
    (harg : ∀ b, argAllowed op b = true ↔ b = a) : onlyCmdWord (cmdWord 0 a op) (decodeLegalCmd a op) := by
  constructor
  · have hm : malformedCmd 0 a op = false := (malformedCmd_eq_false_iff hop).2 ⟨rfl, (harg a).2 rfl⟩
    show decodeCmd (cmdWord 0 a op) = decodeLegalCmd a op
    rw [decodeCmd_cmdWord, hop, hm]
    rfl
  · intro v hv hne
    have hopv : cmdOp v = op :=
      BitVec.eq_of_toNat_eq (by rw [cmdOp_toNat, hv, ← cmdOp_toNat, cmdOp_cmdWord])
    refine reportsBadCmd_of_fields (.inr (Bool.of_not_eq_false fun hm => hne ?_))
    rw [hopv, malformedCmd_eq_false_iff hop, harg] at hm
    obtain ⟨hz, ha⟩ := hm
    rw [← cmdWord_fields v, hz, ha, hopv]

end Sys2Proof.Machine
end

section
/-! The standalone checksum unit (40_checksum.md R67 to R69). -/

namespace Sys2Proof.Machine

/-- The byte of a written value, as a number: `v mod 256` (R60). -/
theorem lowByte_eq_ofNat (v : Word) : lowByte v = BitVec.ofNat 8 v.toNat := rfl

theorem ofBool_beq {n : Nat} (x y : BitVec n) : BitVec.ofBool (x == y) = if x = y then 1 else 0 := by
  by_cases h : x = y
  · rw [if_pos h, beq_iff_eq.2 h]; rfl
  · rw [if_neg h, beq_eq_false_iff_ne.2 h]; rfl

/-- CK_INFO's fields: count, validator, generator and sum (R69). -/
theorem regCkInfo_eq (s : State) : regCkInfo s = s.ckCnt ++ (0 : BitVec 7) ++
    (if s.ckSum = 0 then 1 else 0 : BitVec 1) ++ BitVec.ofNat 8 (256 - s.ckSum.toNat) ++ s.ckSum := by
  rw [regCkInfo, ofBool_beq, neg8]

/-- Settles O12: the write's one outcome. -/
theorem ckDataWriteAddsOneByte : Obligations.CkDataWriteAddsOneByte := fun v s =>
  ⟨rfl, lowByte_eq_ofNat v ▸ exec_of_effect (.wrCkData v s)⟩

/-- Settles O13: the clear's and the read's one outcome each. -/
theorem ckClearAndCkInfo : Obligations.CkClearAndCkInfo := by
  refine ⟨onlyCmdWord_of_argAllowed_iff (op := 0x8) (a := 0) rfl (by decide), rfl, fun s => ⟨exec_of_effect (.ckClear s), ?_⟩⟩
  rw [← regCkInfo_eq]
  exact exec_of_effect (.rdCkInfo s)

end Sys2Proof.Machine
end

section
/-! The transmit framer's operations (41_tx_framer.md R71 to R77), and which operations hand a byte to the line. -/

namespace Sys2Proof.Machine

/-- The checksum brings the sum of the frame's bytes to 0 (R70, R75). -/
theorem emit_neg8_txSum (s : State) : emit (neg8 s.txSum) s =
    { s with txHold := BitVec.ofNat 8 (256 - s.txSum.toNat), txBusy := true, txSum := 0
             txCnt := BitVec.ofNat 8 (min (s.txCnt.toNat + 1) 255) } := by
  have h0 : s.txSum + neg8 s.txSum = 0 := by rw [neg8_eq_neg, add_neg_cancel]
  rw [emit, h0]
  rfl

/-- Settles O14, by the outcomes of TX_START under the conditions of each. -/
theorem txStartOpensFrameWithSyncByte : Obligations.TxStartOpensFrameWithSyncByte := by
  refine ⟨onlyCmdWord_of_argAllowed_iff (op := 0x5) (a := 0) rfl (by decide), fun s => ?_⟩
  refine ⟨fun ho => ?_, fun ho hb => ?_, fun ho hb => ?_⟩
  · exact exec_of_effect (.txStartSeq s ho)
  · exact exec_of_effect (.txStartOverrun s ho hb)
  · exact exec_of_effect (.txStart s ho hb)

/-- Settles O15, by the outcomes of a TX_DATA write under the conditions of each. -/
theorem txDataAppendsHostByte : Obligations.TxDataAppendsHostByte := by
  refine fun v s => ⟨rfl, fun ho => ?_, fun ho hb => ?_, fun ho hb => ?_⟩
  · exact exec_of_effect (.wrTxDataSeq v s ho)
  · exact exec_of_effect (.wrTxDataOverrun v s ho hb)
  · exact exec_of_effect (.wrTxData v s ho hb)

/-- Settles O16, by the outcomes of TX_END under the conditions of each. -/
theorem txEndAppendsChecksum : Obligations.TxEndAppendsChecksum := by
  refine ⟨onlyCmdWord_of_argAllowed_iff (op := 0x6) (a := 0) rfl (by decide), fun s => ?_⟩
  refine ⟨fun ho => ?_, fun ho hb => ?_, fun ho hb => ?_⟩
  · exact exec_of_effect (.txEndSeq s ho)
  · exact exec_of_effect (.txEndOverrun s ho hb)
  · have hemit := emit_neg8_txSum { s with txOpen := false }
    exact (exec_of_effect (.txEnd s ho hb)).trans (congrArg (fun t => (.next (commandOk t) : Result)) hemit)

/-- Settles O17: TX_ABORT has one outcome. -/
theorem txAbortDiscardsHeldByte : Obligations.TxAbortDiscardsHeldByte :=
  ⟨onlyCmdWord_of_argAllowed_iff (op := 0x7) (a := 0) rfl (by decide), fun s => exec_of_effect (.txAbort s)⟩

/-- Settles O18: TXTAKE has one outcome while a byte is held. -/
theorem txTakeHandsByteToTheLine : Obligations.TxTakeHandsByteToTheLine := fun s hb => exec_of_effect (.txTake s hb)

@[simp] theorem accumulate_txOut (b : Byte) (s : State) : (accumulate b s).txOut = s.txOut :=
  accumulate_field (f := State.txOut) (fun _ _ _ _ => rfl) b s

/-- Settles O19: of all outcomes only TXTAKE's writes `txOut`. -/
theorem bytesLeaveOnlyByTake : Obligations.BytesLeaveOnlyByTake := by
  intro i s t h
  cases effect_of_exec h
  case txTake hb => exact .inr ⟨rfl, hb, rfl⟩
  case rxbyteAccum b _ => exact .inl (accumulate_txOut b s)
  all_goals exact .inl rfl

end Sys2Proof.Machine
end

section
/-! Runs of scripts (30_encoding.md R63): an event at a clock edge of its own does what its operation does, and the inputs
after it stay; so the effects of a script's parts compose. -/

namespace Sys2Proof.Machine

/-! ### Operations and the inputs still to come -/

/-- `s` with other inputs still to come. -/
def withInputs (inputs : List PortCycle) (s : State) : State := { s with inputs := inputs }

theorem accumulate_withInputs (inputs : List PortCycle) (b : Byte) (s : State) :
    accumulate b (withInputs inputs s) = withInputs inputs (accumulate b s) :=
  accumulate_alike rfl rfl rfl rfl rfl rfl fun _ _ _ _ => rfl

/-- No operation reads or writes the inputs still to come. -/
theorem effect_withInputs (inputs : List PortCycle) {i : Instr} {s t : State} (e : Effect i s t) :
    Effect i (withInputs inputs s) (withInputs inputs t) := by
  cases e
  case rxbyteAccum b h =>
    rw [← accumulate_withInputs]
    exact .rxbyteAccum b (withInputs inputs s) h
  case wrCtrlKept v h => exact .wrCtrlKept v (withInputs inputs s) h
  case wrIgnored addr v => exact .wrIgnored addr v (withInputs inputs s)
  case rxTimeoutEvtKept h h' => exact .rxTimeoutEvtKept (withInputs inputs s) h h'
  -- In every other outcome the update commutes with the change of the inputs by computation.
  all_goals constructor <;> assumption

/-! ### Reaching a state -/

/-- Some number of steps leads from `s` to `t`. -/
def reaches (s t : State) : Prop := ∃ n, Host.Core.run Sys2Proof.core n s = .next t

theorem run_succ_of_step {M : Host.Core} {s u : M.State} (h : M.step s = .next u) (n : Nat) :
    M.run (n + 1) s = M.run n u := by
  rw [Host.Core.run, h]

theorem reaches.refl (s : State) : reaches s s := ⟨0, rfl⟩

theorem reaches.of_step {s u t : State} (hs : step s = .next u) (h : reaches u t) : reaches s t := by
  obtain ⟨n, hn⟩ := h
  exact ⟨n + 1, (run_succ_of_step (M := Sys2Proof.core) hs n).trans hn⟩

theorem reaches.trans {s u t : State} (hsu : reaches s u) (hut : reaches u t) : reaches s t := by
  obtain ⟨n, hn⟩ := hsu
  induction n generalizing s with
  | zero => cases hn; exact hut
  | succ n ih =>
    obtain ⟨v, hv⟩ := everyStepAnswersANextState s
    exact .of_step hv (ih ((run_succ_of_step (M := Sys2Proof.core) hv n).symm.trans hn))

/-! ### Scripts -/

/-- The script `es` leads from `s` to `t`, whatever inputs stand after it; those are left. -/
def runsScript (es : List PortEvent) (s t : State) : Prop :=
  ∀ rest, reaches (withInputs (es.map PortCycle.ofEvent ++ rest) s) (withInputs rest t)

theorem runsScript.nil (s : State) : runsScript [] s s := fun _ => .refl _

theorem runsScript.append {es es' : List PortEvent} {s u t : State} (h : runsScript es s u) (h' : runsScript es' u t) :
    runsScript (es ++ es') s t := fun rest => by
  rw [List.map_append, List.append_assoc]
  exact (h _).trans (h' rest)

/-- An edge with no event left is over in one step. -/
theorem reaches_of_edge_over {c : PortCycle} {s : State} (hn : nextEvent c s = none) (rest : List PortCycle) :
    reaches (withInputs (c :: rest) s) (withInputs rest s) :=
  .of_step (step_of_edge_over (s := withInputs (c :: rest) s) rfl hn) (.refl _)

/-- An event does what the operation it decodes to does. -/
theorem runsScript.event {e : PortEvent} {s t : State} (h : Effect (decodeEvent s.rxState s.actMode e) s t) :
    runsScript [e] s t := fun rest => by
  have htake : e = .txTake → s.txBusy = true := by
    rintro rfl
    cases h
    assumption
  have hn : nextEvent (PortCycle.ofEvent e) (withInputs (PortCycle.ofEvent e :: rest) s) = some (e, PortCycle.idle) :=
    nextEvent_ofEvent htake
  have hexec : exec (decodeEvent s.rxState s.actMode e) (withInputs (PortCycle.idle :: rest) s) = _ :=
    exec_of_effect (effect_withInputs (PortCycle.idle :: rest) h)
  have hstep : step (withInputs (PortCycle.ofEvent e :: rest) s) = .next (withInputs (PortCycle.idle :: rest) t) :=
    (step_of_nextEvent rfl hn).trans hexec
  exact .of_step hstep (reaches_of_edge_over rfl rest)

/-- A take while no byte is held is no event (R62). -/
theorem runsScript.take_of_empty {s : State} (hb : s.txBusy = false) : runsScript scriptTake s s :=
  reaches_of_edge_over (by simp [nextEvent, PortCycle.ofEvent, PortCycle.idle, hb])

/-- A script that is all the input there is runs to its end. -/
theorem runsScript.run_loadScript {es : List PortEvent} {s t : State} (h : runsScript es s t) (hi : s.inputs = []) :
    ∃ n, Host.Core.run Sys2Proof.core n (loadScript es s) = .next (withInputs [] t) := by
  have hload : loadScript es s = withInputs (es.map PortCycle.ofEvent ++ []) s := by
    rw [loadScript, hi, List.nil_append, List.append_nil]; rfl
  rw [hload]
  exact h []

end Sys2Proof.Machine
end

section
/-! The `send` script (30_encoding.md R63, 41_tx_framer.md R72): how far the frame is when a part of the script has run. -/

namespace Sys2Proof.Machine

/-- A frame is open and its bytes so far are `bs`: `tx_sum` is their sum, and all but the last, which is held, have been
taken by a line that had taken `out` before. -/
structure Sending (out bs : List Byte) (s : State) : Prop where
  isOpen : s.txOpen = true
  isBusy : s.txBusy = true
  bytes : s.txOut ++ [s.txHold] = out ++ bs
  sum : s.txSum = sum8 bs

/-- `s` after the line has taken the held byte (R77). -/
def takeHeld (s : State) : State := setPend pendTxReady (emptyHold { s with txOut := s.txOut ++ [s.txHold] })

/-- `s` after a read of STATUS (R104). -/
def statusRead (s : State) : State := returnWord (regStatus s) s

theorem runsScript.take {s : State} (hb : s.txBusy = true) : runsScript scriptTake s (takeHeld s) :=
  .event (.txTake s hb)

theorem runsScript.rdStatus (s : State) : runsScript (scriptRd addrStatus) s (statusRead s) :=
  .event (.rdReg addrStatus s)

/-- The byte of a word that `tx b` writes is `b` (R60, R63). -/
@[simp] theorem lowByte_setWidth (b : Byte) : lowByte (b.setWidth 32) = b := by
  rw [lowByte_eq_ofNat, BitVec.toNat_setWidth_of_le (by decide), BitVec.ofNat_toNat, BitVec.setWidth_eq]

/-- The line `tx b` where a byte can be written (R63, R74). -/
theorem runsScript.tx {s : State} (b : Byte) (ho : s.txOpen = true) (hb : s.txBusy = false) :
    runsScript (scriptTx b) s (commandOk (emit b s)) := by
  have hwrite : Effect (.wrTxData (b.setWidth 32)) s (commandOk (emit (lowByte (b.setWidth 32)) s)) := .wrTxData _ s ho hb
  rw [lowByte_setWidth] at hwrite
  exact .event hwrite

/-- The beginning of `send`: the empty hold register gives the wait nothing to take, and TX_START holds the sync byte. -/
theorem exists_runsScript_start {s : State} (ho : s.txOpen = false) (hb : s.txBusy = false) :
    ∃ t, runsScript (scriptWaitTx ++ scriptCmd 0x5 0) s t ∧ Sending s.txOut [0x55] t := by
  have hwait : runsScript scriptWaitTx s (statusRead s) := .append (.take_of_empty hb) (.rdStatus s)
  have hstart : runsScript (scriptCmd 0x5 0) (statusRead s) _ := .event (.txStart (statusRead s) ho hb)
  exact ⟨_, hwait.append hstart, rfl, rfl, rfl, rfl⟩

section
variable {out bs : List Byte} {s : State} (h : Sending out bs s)
include h

theorem Sending.runsScript_waitTx : runsScript scriptWaitTx s (statusRead (takeHeld s)) :=
  .append (.take h.isBusy) (.rdStatus (takeHeld s))

/-- One line `txb b`: the held byte leaves, and `b` is held. -/
theorem Sending.exists_runsScript_txb (b : Byte) : ∃ t, runsScript (scriptTxb b) s t ∧ Sending out (bs ++ [b]) t := by
  have htx : runsScript (scriptTx b) (statusRead (takeHeld s)) _ := .tx b h.isOpen rfl
  refine ⟨_, h.runsScript_waitTx.append htx, ?_, rfl, ?_, ?_⟩
  · simp [statusRead, takeHeld, h.isOpen]
  · show s.txOut ++ [s.txHold] ++ [b] = out ++ (bs ++ [b])
    rw [h.bytes, List.append_assoc]
  · show s.txSum + b = sum8 (bs ++ [b])
    rw [h.sum, sum8_concat]

/-- The host's bytes one after another, each as a line `txb`. -/
theorem Sending.exists_runsScript_bytes (hs : List Byte) :
    ∃ t, runsScript (hs.flatMap scriptTxb) s t ∧ Sending out (bs ++ hs) t := by
  induction hs generalizing bs s with
  | nil => exact ⟨s, .nil s, by rwa [List.append_nil]⟩
  | cons b hs ih =>
    obtain ⟨u, hu, hsent⟩ := h.exists_runsScript_txb b
    obtain ⟨t, ht, hall⟩ := ih hsent
    refine ⟨t, hu.append ht, ?_⟩
    rwa [List.append_assoc, List.singleton_append] at hall

/-- The end of `send` and the last take: the held byte leaves, and after it the checksum that TX_END holds. -/
theorem Sending.exists_runsScript_end :
    ∃ t, runsScript (scriptWaitTx ++ scriptCmd 0x6 0 ++ scriptTake) s t ∧ t.txOpen = false ∧ t.txBusy = false ∧
      t.cmdErr = .ok ∧ t.txOut = out ++ bs ++ [checksum bs] := by
  have hend : runsScript (scriptCmd 0x6 0) (statusRead (takeHeld s)) _ := .event (.txEnd _ h.isOpen rfl)
  refine ⟨_, (h.runsScript_waitTx.append hend).append (.take rfl), rfl, rfl, rfl, ?_⟩
  show s.txOut ++ [s.txHold] ++ [neg8 s.txSum] = _
  rw [h.bytes, h.sum, checksum]

end

/-- Settles O20: the three parts of the script one after another, with the sum by `appendedChecksumMakesSumZero`. -/
theorem sentFrameIsSyncHostBytesChecksum : Obligations.SentFrameIsSyncHostBytesChecksum := by
  intro s hs ho hb hi
  obtain ⟨u, hstart, hsync⟩ := exists_runsScript_start ho hb
  obtain ⟨v, hbytes, hall⟩ := hsync.exists_runsScript_bytes hs
  obtain ⟨t, hend, htOpen, htBusy, htErr, htOut⟩ := hall.exists_runsScript_end
  have hscript : runsScript (scriptSend hs ++ scriptTake) s t := by
    simpa only [scriptSend, List.append_assoc] using (hstart.append hbytes).append hend
  obtain ⟨n, hn⟩ := hscript.run_loadScript hi
  refine ⟨n, withInputs [] t, hn, rfl, htOpen, htBusy, htErr, ?_, appendedChecksumMakesSumZero (0x55 :: hs)⟩
  exact htOut.trans (List.append_assoc s.txOut (0x55 :: hs) _)

end Sys2Proof.Machine
end

section
/-! The receiver's commands, the timeout, and a byte outside a frame (42_rx_framer.md R80 to R84, R89). -/

namespace Sys2Proof.Machine

/-- Settles O21, by the outcomes of RX_ARM under the condition of each. -/
theorem rxArmLatchesLengthAndMode : Obligations.RxArmLatchesLengthAndMode := by
  refine ⟨onlyCmdWord_of_argAllowed_iff (op := 0x1) (a := 0) rfl (by decide), fun s => ⟨fun hl => ?_, fun hl => ?_⟩⟩
  · exact exec_of_effect (.rxArm s hl)
  · exact exec_of_effect (.rxArmBad s hl)

/-- A CMD word with `Z = 0`, as a number (R55). -/
theorem ofNat_eq_cmdWord (a op : Nibble) : BitVec.ofNat 32 (16 * a.toNat + op.toNat) = cmdWord 0 a op := by
  have ha := a.isLt
  have hop := op.isLt
  have hz : (0 : BitVec 24).toNat = 0 := rfl
  apply BitVec.eq_of_toNat_eq
  rw [BitVec.toNat_ofNat, cmdWord_toNat, hz]
  omega

/-- LEN_ROM is the table of R38. -/
theorem lenRom_eq_getElem? (a : Nibble) : lenRom a = [11, 15, 7, 7, 7, 10, 7, 11, 147][a.toNat]? := by
  revert a; decide

/-- RX_ARM_OP with an index of LEN_ROM arms with its entry (R81). -/
theorem exec_rxArmOp_of_entry {a : Nibble} {len : Byte} (h : lenRom a = some len) (s : State) :
    exec (.rxArmOp a) s = .next (armCommon len s) := by
  rcases lenRom_cases a with ⟨entry, he, -, hmin⟩ | ⟨hnone, -⟩
  · obtain rfl : entry = len := Option.some.inj (he.symm.trans h)
    exact exec_of_effect (.rxArmOp a entry s h hmin)
  · exact absurd (hnone.symm.trans h) nofun

/-- Settles O22: every word of the opcode with `Z = 0` is RX_ARM_OP's, and the table decides between its two outcomes. -/
theorem rxArmOpLatchesTableLength : Obligations.RxArmOpLatchesTableLength := by
  refine ⟨fun v _ hz => reportsBadCmd_of_toNat (.inl (by omega)), fun a => ?_, fun a s => ⟨fun len hlen => ?_, fun ha => ?_⟩⟩
  · exact (congrArg decodeCmd (ofNat_eq_cmdWord a 0x2)).trans (decodeCmd_cmdWord_rxArmOp a)
  · exact exec_rxArmOp_of_entry ((lenRom_eq_getElem? a).trans hlen) s
  · exact exec_rxArmOp_of_no_entry ha s

/-- Settles O23: RX_CLEAR has one outcome. -/
theorem rxClearSwitchesReceiverOff : Obligations.RxClearSwitchesReceiverOff :=
  ⟨onlyCmdWord_of_argAllowed_iff (op := 0x3) (a := 0) rfl (by decide), fun s => exec_of_effect (.rxClear s)⟩

/-- Settles O24, by the two outcomes of the command and of the input. -/
theorem timeoutEndsHuntAndAccumOnly : Obligations.TimeoutEndsHuntAndAccumOnly := by
  refine ⟨onlyCmdWord_of_argAllowed_iff (op := 0x4) (a := 0) rfl (by decide), fun s => ⟨fun hs => ?_, fun hs => ?_⟩⟩
  · exact ⟨exec_of_effect (.rxTimeoutCmd s hs), exec_of_effect (.rxTimeoutEvt s hs)⟩
  · obtain ⟨hhunt, haccum⟩ : s.rxState ≠ .hunt ∧ s.rxState ≠ .accum := by rcases hs with hs | hs | hs <;> simp [hs]
    exact ⟨exec_of_effect (.rxTimeoutCmdKept s hhunt haccum), exec_of_effect (.rxTimeoutEvtKept s hhunt haccum)⟩

/-- Settles O25: the row has one outcome in the states that select it. -/
theorem byteOutsideFrameIsDropped : Obligations.ByteOutsideFrameIsDropped := fun b s hs =>
  exec_of_effect (.rxbyteDrop b s hs)

end Sys2Proof.Machine
end

section
/-! The received bytes of a frame (42_rx_framer.md R85 to R88, R90): what the first and every further byte store, and what
ends a frame. -/

namespace Sys2Proof.Machine

/-- All a first byte does: it is stored at `FB[0]`, counted and summed, and the receiver is in ACCUM (R85 to R87). -/
theorem startFrame_stores (b : Byte) (s : State) :
    startFrame b s = { s with fb := (startFrame b s).fb, rxCount := 1, rxSum := b, rxState := .accum } ∧
    fbByte (startFrame b s) 0 = b ∧ ∀ j, j ≠ 0 → fbByte (startFrame b s) j = fbByte s j :=
  ⟨rfl, fbByte_of_insert_same (startFrame_fb b s), fun _ hj => fbByte_of_insert_other (startFrame_fb b s) rfl hj⟩

/-- Settles O26, by the outcomes of the three rows; those that start a frame are the same store. -/
theorem firstByteFollowsSyncMode : Obligations.FirstByteFollowsSyncMode := by
  intro b s hs starts
  have hstarts {i : Instr} (e : Effect i s (startFrame b s)) : starts (exec i s) :=
    ⟨_, exec_of_effect e, startFrame_stores b s⟩
  refine ⟨fun hm => ?_, fun hm hb => ?_, fun hm hb => ?_, fun hm hb => ?_, fun hm hb => ?_⟩
  · exact hstarts (.rxbyteHuntNone b s hs hm)
  · subst hb; exact hstarts (.rxbyteHuntStrict s hs hm)
  · exact exec_of_effect (.rxbyteHuntStrictBad b s hs hm hb)
  · subst hb; exact hstarts (.rxbyteHuntHunt s hs hm)
  · exact exec_of_effect (.rxbyteHuntHuntSkip b s hs hm hb)

/-- A byte in ACCUM changes FB, the count, the sum and the outcome of the frame, and nothing else (R88). -/
theorem accumulate_eq (b : Byte) (s : State) : accumulate b s =
    { s with fb := (accumulate b s).fb, rxState := (accumulate b s).rxState, rxErr := (accumulate b s).rxErr
             intPend := (accumulate b s).intPend, rxCount := BitVec.ofNat 8 (s.rxCount.toNat + 1), rxSum := s.rxSum + b } := by
  rcases accumulate_storeByte b s with ⟨-, ha⟩ | ⟨-, -, ha⟩ | ⟨-, -, ha⟩ <;> rw [ha] <;> rfl

/-- Settles O27: the byte is stored the same way whatever follows, and the count and the sum decide what follows. -/
theorem accumulatedByteIsStoredAndValidated : Obligations.AccumulatedByteIsStoredAndValidated := by
  intro b s hs
  refine ⟨accumulate b s, exec_of_effect (.rxbyteAccum b s hs), accumulate_eq b s, fbByte_of_insert_same (accumulate_fb b s),
    fun j hj => fbByte_of_insert_other (accumulate_fb b s) (accumulate_fbEpoch b s) hj,
    fun hn => ?_, fun hn h0 => ?_, fun hn h0 => ?_⟩
  · rw [accumulate_of_more hn]; exact ⟨hs, rfl, rfl⟩
  · rw [accumulate_of_verified hn h0]; exact ⟨rfl, rfl, rfl⟩
  · rw [accumulate_of_bad_sum hn h0]; exact ⟨rfl, rfl, rfl⟩

theorem sameFrame.rxState {s t : State} (h : sameFrame s t) : t.rxState = s.rxState := (congrArg State.rxState h :)

/-- Settles O29: every other effect on the receiver keeps its state or leads to a state that is not DONE. -/
theorem doneIsReachedOnlyByACompletedValidFrame : Obligations.DoneIsReachedOnlyByACompletedValidFrame := by
  intro i s t h hs hd
  cases rxEffect_of_exec h with
  | kept hf _ => exact absurd (hf.rxState.symm.trans hd) hs
  | dropped | skipped | recordLoaded => exact absurd hd hs
  | expired _ hf _ => exact absurd (hf.rxState.symm.trans hd) nofun
  | armed | cleared | syncLost | started | wasReset => exact absurd hd nofun
  | stored b _ hacc =>
    rcases accumulate_storeByte b s with ⟨-, ha⟩ | ⟨hn, h0, -⟩ | ⟨-, -, ha⟩
    · rw [ha] at hd; exact absurd hd hs
    · exact ⟨b, rfl, hacc, hn, h0⟩
    · rw [ha] at hd; exact absurd hd nofun

end Sys2Proof.Machine
end

section
/-! The reception of a whole frame (42_rx_framer.md R86 to R90): what the receiver holds after a part of the frame, and after
all of it. -/

namespace Sys2Proof.Machine

/-- The receiver is in ACCUM and the frame so far is `bs`; the frame's length is `len`, and `pend` is pending. -/
structure Receiving (len : Byte) (pend : Nibble) (bs : List Byte) (s : State) : Prop where
  inAccum : s.rxState = .accum
  bytes : framePrefix s = bs
  sum : s.rxSum = sum8 bs
  actLen : s.actLen = len
  intPend : s.intPend = pend

/-- The frame `frame` of length `len` has ended in DONE or in CHECKSUM, as its sum says, where `pend` was pending before. -/
structure Received (len : Byte) (pend : Nibble) (frame : List Byte) (s : State) : Prop where
  bytes : framePrefix s = frame
  count : s.rxCount = len
  sum : s.rxSum = sum8 frame
  verified : sum8 frame = 0 → s.rxState = .done ∧ s.intPend = pend ||| 0b0001
  badSum : sum8 frame ≠ 0 → s.rxState = .error ∧ s.rxErr = .checksum ∧ s.intPend = pend ||| 0b0010

theorem framePrefix_length (s : State) : (framePrefix s).length = s.rxCount.toNat := fbPrefix_length s _

theorem framePrefix_withOutcome (st : RxState) (e : RxErr) (p : Nibble) (s : State) :
    framePrefix (withOutcome st e p s) = framePrefix s := framePrefix_congr rfl rfl rfl

/-! ### The first byte -/

/-- In HUNT a byte that suits the sync mode starts the frame, whichever row it is (R85 to R87). -/
theorem effect_rxByte_of_hunt {s : State} {b : Byte} (hs : s.rxState = .hunt) (hb : s.actMode ≠ .none → b = Config.sync) :
    Effect (decodeRxByte s.rxState s.actMode b) s (startFrame b s) := by
  rw [hs]
  cases hm : s.actMode with
  | none => exact .rxbyteHuntNone b s hs hm
  | strict => rw [hb (by simp [hm])]; exact .rxbyteHuntStrict s hs hm
  | hunt => rw [hb (by simp [hm])]; exact .rxbyteHuntHunt s hs hm

theorem StateInv.receiving_startFrame {s : State} (h : StateInv s) (hs : s.rxState = .hunt) (b : Byte) :
    Receiving s.actLen s.intPend [b] (Machine.startFrame b s) := by
  have hc := h.rxCount_of_hunt hs
  have hempty : framePrefix s = [] := by rw [framePrefix, hc]; rfl
  refine ⟨rfl, ?_, (BitVec.add_zero b).symm, rfl, rfl⟩
  rw [startFrame_eq_storeByte b hc (h.rxSum_of_hunt hs), framePrefix_withOutcome,
    framePrefix_storeByte b (by rw [hc]; decide), hempty, List.nil_append]

/-! ### The further bytes -/

section
variable {len : Byte} {pend : Nibble} {bs : List Byte} {s : State} (h : Receiving len pend bs s)
include h

theorem Receiving.count : s.rxCount.toNat = bs.length := by rw [← framePrefix_length, h.bytes]

theorem Receiving.framePrefix_storeByte (b : Byte) (hle : bs.length + 1 ≤ len.toNat) :
    framePrefix (storeByte b s) = bs ++ [b] := by
  have hlt : s.rxCount.toNat + 1 < 256 := h.count ▸ Nat.lt_of_le_of_lt hle len.isLt
  rw [Machine.framePrefix_storeByte b hlt, h.bytes]

theorem Receiving.sum_storeByte (b : Byte) : (storeByte b s).rxSum = sum8 (bs ++ [b]) :=
  (congrArg (· + b) h.sum).trans (sum8_concat bs b).symm

/-- The next byte is a byte in ACCUM (R88). -/
theorem Receiving.runsScript_rxByte (b : Byte) : runsScript [.rxByte b] s (accumulate b s) := by
  apply runsScript.event
  rw [h.inAccum]
  exact .rxbyteAccum b s h.inAccum

/-- A byte before the last goes into the frame (R88). -/
theorem Receiving.accumulate (b : Byte) (hlt : bs.length + 1 < len.toNat) :
    Receiving len pend (bs ++ [b]) (accumulate b s) := by
  have hn : s.rxCount.toNat + 1 ≠ s.actLen.toNat := by rw [h.count, h.actLen]; exact Nat.ne_of_lt hlt
  rw [accumulate_of_more hn]
  exact ⟨h.inAccum, h.framePrefix_storeByte b (Nat.le_of_lt hlt), h.sum_storeByte b, h.actLen, h.intPend⟩

/-- The last byte goes into the frame, and the sum decides (R88). -/
theorem Receiving.received_accumulate (b : Byte) (heq : bs.length + 1 = len.toNat) :
    Received len pend (bs ++ [b]) (Machine.accumulate b s) := by
  have hn : s.rxCount.toNat + 1 = s.actLen.toNat := by rw [h.count, h.actLen, heq]
  have hsum : s.rxSum + b = sum8 (bs ++ [b]) := h.sum_storeByte b
  refine ⟨?_, ?_, ?_, fun h0 => ?_, fun h0 => ?_⟩
  · exact (accumulate_field framePrefix_withOutcome b s).trans (h.framePrefix_storeByte b (Nat.le_of_eq heq))
  · rw [accumulate_rxCount, hn, h.actLen, BitVec.ofNat_toNat, BitVec.setWidth_eq]
  · exact (accumulate_field (f := State.rxSum) (fun _ _ _ _ => rfl) b s).trans hsum
  · rw [accumulate_of_verified hn (hsum.trans h0), h.intPend]; exact ⟨rfl, rfl⟩
  · rw [accumulate_of_bad_sum hn (hsum.trans_ne h0), h.intPend]; exact ⟨rfl, rfl, rfl⟩

/-- Bytes before the last, one after another. -/
theorem Receiving.exists_runsScript_bytes (cs : List Byte) (hlt : bs.length + cs.length < len.toNat) :
    ∃ t, runsScript (scriptRx cs) s t ∧ Receiving len pend (bs ++ cs) t := by
  induction cs generalizing bs s with
  | nil => exact ⟨s, .nil s, by rwa [List.append_nil]⟩
  | cons c cs ih =>
    rw [List.length_cons] at hlt
    obtain ⟨t, ht, hall⟩ := ih (h.accumulate c (by omega)) (by rw [List.length_append, List.length_singleton]; omega)
    refine ⟨t, (h.runsScript_rxByte c).append ht, ?_⟩
    rwa [List.append_assoc, List.singleton_append] at hall

/-- The rest of the frame: the bytes before the last, and the last. -/
theorem Receiving.exists_runsScript_rest (cs : List Byte) (hne : cs ≠ []) (heq : bs.length + cs.length = len.toNat) :
    ∃ t, runsScript (scriptRx cs) s t ∧ Received len pend (bs ++ cs) t := by
  obtain rfl | ⟨mid, last, rfl⟩ := cs.eq_nil_or_concat'
  · exact absurd rfl hne
  · rw [List.length_append, List.length_singleton] at heq
    obtain ⟨u, hmid, hu⟩ := h.exists_runsScript_bytes mid (by omega)
    have hscript : runsScript (scriptRx (mid ++ [last])) s (Machine.accumulate last u) := by
      rw [scriptRx, List.map_append]
      exact hmid.append (hu.runsScript_rxByte last)
    have hend := hu.received_accumulate last (by rw [List.length_append]; omega)
    rw [List.append_assoc] at hend
    exact ⟨_, hscript, hend⟩

end

/-- Settles O28: the first byte starts the frame, and the others follow up to its length, which is at least 7. -/
theorem receivedFrameEndsInDoneOrChecksumError : Obligations.ReceivedFrameEndsInDoneOrChecksumError := by
  intro s frame h hs hi hlen hsync
  have hmin : 7 ≤ s.actLen.toNat := h.minLen_le (by simp [hs])
  obtain _ | ⟨b, cs⟩ := frame
  · rw [← hlen] at hmin; exact absurd hmin (by decide)
  · rw [List.length_cons] at hlen
    have hb : s.actMode ≠ .none → b = Config.sync := fun hm => Option.some.inj (hsync hm)
    have hfirst : runsScript [.rxByte b] s (startFrame b s) := .event (effect_rxByte_of_hunt hs hb)
    have hne : cs ≠ [] := List.ne_nil_of_length_pos (by omega)
    obtain ⟨t, hrest, ht⟩ := (h.receiving_startFrame hs b).exists_runsScript_rest cs hne (by rw [List.length_singleton]; omega)
    obtain ⟨n, hn⟩ := runsScript.run_loadScript (es := scriptRx (b :: cs)) (hfirst.append hrest) hi
    refine ⟨n, withInputs [] t, hn, rfl, ?_, ht.count, ht.sum, ht.verified, ht.badSum⟩
    exact (framePrefix_congr (s := withInputs [] t) (t := t) rfl rfl rfl).trans ht.bytes

end Sys2Proof.Machine
end

section
/-! The record's bit fields (43_record_decoder.md R93): each as a quotient or a remainder, and the fields in their order as
the bytes again. -/

namespace Sys2Proof

/-- A bit vector splits at every place. -/
theorem exists_append_eq {n m : Nat} (w : BitVec (n + m)) : ∃ (x : BitVec n) (y : BitVec m), x ++ y = w :=
  ⟨w.extractLsb' m n, w.extractLsb' 0 m, BitVec.extractLsb'_append_extractLsb'⟩

/-- Concatenation loses nothing: parts of the same widths that make the same vector are the same parts. -/
theorem append_inj {n m : Nat} {x x' : BitVec n} {y y' : BitVec m} (h : x ++ y = x' ++ y') : x = x' ∧ y = y' := by
  have hx : x = x' := by simpa only [BitVec.extractLsb'_append_eq_left] using congrArg (BitVec.extractLsb' m n) h
  subst hx
  exact ⟨rfl, (BitVec.append_right_inj x).1 h⟩

namespace Machine

/-! ### The fields as quotients and remainders -/

/-- A mask of `n` ones keeps the remainder by `2 ^ n`. -/
theorem and_mask_toNat (r : Byte) (n : Nat) (hn : n ≤ 8) :
    (r &&& BitVec.ofNat 8 (2 ^ n - 1)).toNat = r.toNat % 2 ^ n := by
  have hpow : 2 ^ n - 1 < 2 ^ 8 := Nat.sub_one_lt_of_le (Nat.two_pow_pos n) (Nat.pow_le_pow_right (by decide) hn)
  rw [BitVec.toNat_and, BitVec.toNat_ofNat, Nat.mod_eq_of_lt hpow, Nat.and_two_pow_sub_one_eq_mod]

/-- A right shift by `n` is the quotient by `2 ^ n`. -/
theorem ushiftRight_toNat (r : Byte) (n : Nat) : (r >>> n).toNat = r.toNat / 2 ^ n := by
  rw [BitVec.toNat_ushiftRight, Nat.shiftRight_eq_div_pow]

theorem recHourOf_eq_ofNat (r1 : Byte) : recHourOf r1 = BitVec.ofNat 5 (r1.toNat / 8) := by
  rw [recHourOf, ← BitVec.ofNat_toNat, ushiftRight_toNat]
  rfl

theorem recMonthOf_eq_ofNat (r3 : Byte) : recMonthOf r3 = BitVec.ofNat 5 (r3.toNat / 8) :=
  recHourOf_eq_ofNat r3

theorem recDayOf_eq_ofNat (r2 : Byte) : recDayOf r2 = BitVec.ofNat 5 (r2.toNat % 32) := by
  rw [recDayOf, ← BitVec.ofNat_toNat]
  exact congrArg _ (and_mask_toNat r2 5 (by decide))

theorem recDowOf_eq_ofNat (r3 : Byte) : recDowOf r3 = BitVec.ofNat 3 (r3.toNat % 8) := by
  rw [recDowOf, ← BitVec.ofNat_toNat]
  exact congrArg _ (and_mask_toNat r3 3 (by decide))

/-- The two parts of the minute do not overlap, so their OR is their sum. -/
theorem recMinuteOf_eq_ofNat (r1 r2 : Byte) :
    recMinuteOf r1 r2 = BitVec.ofNat 6 (r1.toNat % 8 * 8 + r2.toNat / 32) := by
  have hhigh : ((r1 &&& 0x07) <<< 3).toNat = (r1.toNat % 8) <<< 3 := by
    have hmask : (r1 &&& 0x07).toNat = r1.toNat % 8 := and_mask_toNat r1 3 (by decide)
    rw [BitVec.toNat_shiftLeft, hmask, Nat.shiftLeft_eq]
    omega
  have hlow : (r2 >>> 5).toNat < 2 ^ 3 := by
    have := r2.isLt
    rw [ushiftRight_toNat]
    omega
  rw [recMinuteOf, ← BitVec.ofNat_toNat, BitVec.toNat_or, hhigh, ← Nat.shiftLeft_add_eq_or_of_lt hlow, ushiftRight_toNat,
    Nat.shiftLeft_eq]
  rfl

theorem recYearOf_eq_ofNat (r4 r5 : Byte) : recYearOf r4 r5 = BitVec.ofNat 16 (r4.toNat * 256 + r5.toNat) :=
  (BitVec.toNat_eq_nat.1 (append_toNat r4 r5)).2

theorem recValueOf_eq_ofNat (r6 r7 r8 r9 : Byte) : recValueOf r6 r7 r8 r9 =
    BitVec.ofNat 32 (((r9.toNat * 256 + r8.toNat) * 256 + r7.toNat) * 256 + r6.toNat) :=
  (BitVec.toNat_eq_nat.1 (packBytes_toNat r9 r8 r7 r6)).2

/-! ### The fields in their order are the bytes -/

/-- Hour, minute and day share `r[1]` and `r[2]` without a gap or an overlap. -/
theorem recHourOf_append_recMinuteOf_append_recDayOf (r1 r2 : Byte) :
    (recHourOf r1 ++ recMinuteOf r1 r2 ++ recDayOf r2 : BitVec 16) = r1 ++ r2 := by
  have h1 := r1.isLt
  have h2 := r2.isLt
  apply BitVec.eq_of_toNat_eq
  rw [recHourOf_eq_ofNat, recMinuteOf_eq_ofNat, recDayOf_eq_ofNat]
  refine ((append_toNat _ _).trans ?_).trans (append_toNat r1 r2).symm
  rw [append_toNat, BitVec.toNat_ofNat, BitVec.toNat_ofNat, BitVec.toNat_ofNat]
  omega

/-- Month and day of the week share `r[3]`. -/
theorem recMonthOf_append_recDowOf (r3 : Byte) : (recMonthOf r3 ++ recDowOf r3 : Byte) = r3 := by
  have h3 := r3.isLt
  apply BitVec.eq_of_toNat_eq
  rw [recMonthOf_eq_ofNat, recDowOf_eq_ofNat]
  refine (append_toNat _ _).trans ?_
  rw [BitVec.toNat_ofNat, BitVec.toNat_ofNat]
  omega

theorem recHourOf_recMinuteOf_recDayOf_inj {r1 r2 q1 q2 : Byte} (hhour : recHourOf r1 = recHourOf q1)
    (hmin : recMinuteOf r1 r2 = recMinuteOf q1 q2) (hday : recDayOf r2 = recDayOf q2) : r1 = q1 ∧ r2 = q2 := by
  apply append_inj
  rw [← recHourOf_append_recMinuteOf_append_recDayOf r1 r2, hhour, hmin, hday,
    recHourOf_append_recMinuteOf_append_recDayOf]

theorem recMonthOf_recDowOf_inj {r3 q3 : Byte} (hmon : recMonthOf r3 = recMonthOf q3) (hdow : recDowOf r3 = recDowOf q3) :
    r3 = q3 := by
  rw [← recMonthOf_append_recDowOf r3, hmon, hdow, recMonthOf_append_recDowOf]

theorem recValueOf_inj {r6 r7 r8 r9 q6 q7 q8 q9 : Byte} (h : recValueOf r6 r7 r8 r9 = recValueOf q6 q7 q8 q9) :
    r6 = q6 ∧ r7 = q7 ∧ r8 = q8 ∧ r9 = q9 := by
  obtain ⟨h987, h6⟩ := append_inj h
  obtain ⟨h98, h7⟩ := append_inj h987
  obtain ⟨h9, h8⟩ := append_inj h98
  exact ⟨h6, h7, h8, h9⟩

theorem exists_recHourOf_recMinuteOf_recDayOf (hour : BitVec 5) (min : BitVec 6) (day : BitVec 5) :
    ∃ r1 r2, recHourOf r1 = hour ∧ recMinuteOf r1 r2 = min ∧ recDayOf r2 = day := by
  obtain ⟨r1, r2, h⟩ := exists_append_eq (n := 8) (m := 8) (hour ++ min ++ day)
  rw [← recHourOf_append_recMinuteOf_append_recDayOf] at h
  obtain ⟨hhourmin, hday⟩ := append_inj h
  obtain ⟨hhour, hmin⟩ := append_inj hhourmin
  exact ⟨r1, r2, hhour, hmin, hday⟩

theorem exists_recMonthOf_recDowOf (mon : BitVec 5) (dow : BitVec 3) : ∃ r3, recMonthOf r3 = mon ∧ recDowOf r3 = dow :=
  ⟨mon ++ dow, append_inj (recMonthOf_append_recDowOf _)⟩

theorem exists_recValueOf (val : BitVec 32) : ∃ r6 r7 r8 r9, recValueOf r6 r7 r8 r9 = val := by
  obtain ⟨r987, r6, rfl⟩ := exists_append_eq (n := 24) (m := 8) val
  obtain ⟨r98, r7, rfl⟩ := exists_append_eq (n := 16) (m := 8) r987
  obtain ⟨r9, r8, rfl⟩ := exists_append_eq (n := 8) (m := 8) r98
  exact ⟨r6, r7, r8, r9, rfl⟩

/-- Settles O32: the fields in their order are the bytes again, so neither side loses a bit of the other. -/
theorem recordFieldsAndRecordBytesCorrespond : Obligations.RecordFieldsAndRecordBytesCorrespond := by
  refine ⟨fun r q h => ?_, fun sec hour min day mon dow year val => ?_⟩
  · simp only [Prod.mk.injEq] at h
    obtain ⟨h0, hhour, hmin, hday, hmon, hdow, hyear, hval⟩ := h
    obtain ⟨h1, h2⟩ := recHourOf_recMinuteOf_recDayOf_inj hhour hmin hday
    have h3 := recMonthOf_recDowOf_inj hmon hdow
    obtain ⟨h4, h5⟩ := append_inj hyear
    obtain ⟨h6, h7, h8, h9⟩ := recValueOf_inj hval
    funext i
    fin_cases i <;> assumption
  · obtain ⟨r1, r2, rfl, rfl, rfl⟩ := exists_recHourOf_recMinuteOf_recDayOf hour min day
    obtain ⟨r3, rfl, rfl⟩ := exists_recMonthOf_recDowOf mon dow
    obtain ⟨r4, r5, rfl⟩ := exists_append_eq (n := 8) (m := 8) year
    obtain ⟨r6, r7, r8, r9, rfl⟩ := exists_recValueOf val
    exact ⟨![sec, r1, r2, r3, r4, r5, r6, r7, r8, r9], rfl⟩

end Machine

end Sys2Proof
end

section
/-! Record slots and DECODE (43_record_decoder.md R94, R95). -/

namespace Sys2Proof.Machine

/-! ### Slots -/

theorem slotInRange_iff {k : Nibble} {len : Byte} : slotInRange k len = true ↔ 10 * k.toNat + 17 ≤ len.toNat :=
  decide_eq_true_iff

theorem slotBase_eq (k : Nibble) : slotBase k = 6 + 10 * k.toNat := rfl

/-- The slots in range are the first `NSLOT(L)` (R94). -/
theorem slotInRange_iff_lt_nslot {k : Nibble} {len : Byte} : slotInRange k len = true ↔ k.toNat < nslot len := by
  rw [slotInRange_iff, nslot]; omega

/-- A slot in range ends before the checksum byte (R94). -/
theorem slotBase_add_le_of_slotInRange {k : Nibble} {len : Byte} (h : slotInRange k len = true) :
    slotBase k + 10 ≤ len.toNat - 1 := by
  rw [slotInRange_iff] at h
  rw [slotBase_eq]; omega

/-- Settles O33: R94's count, its value for the memory-block response, and its bound. -/
theorem slotsInRangeAreCounted : Obligations.SlotsInRangeAreCounted :=
  ⟨fun _ _ => slotInRange_iff_lt_nslot, rfl, fun _ _ => slotBase_add_le_of_slotInRange⟩

/-! ### DECODE -/

/-- DECODE's row has every word with its opcode and `Z = 0`, whatever `A` is (R58, R95). -/
theorem decodeCmd_cmdWord_decode (k : Nibble) : decodeCmd (cmdWord 0 k 0x9) = .decode k :=
  decodeCmd_cmdWord 0 k 0x9

/-- Settles O31: every word of the opcode with `Z = 0` is DECODE's; its three outcomes, each under its condition. -/
theorem decodeLoadsVerifiedRecordSlot : Obligations.DecodeLoadsVerifiedRecordSlot := by
  refine ⟨fun v _ hz => reportsBadCmd_of_toNat (.inl (by omega)), fun k => ?_,
    fun k s => ⟨fun hs => ?_, fun hs hlt => ?_, fun hs hle => ?_⟩⟩
  · exact (congrArg decodeCmd (ofNat_eq_cmdWord k 0x9)).trans (decodeCmd_cmdWord_decode k)
  · exact exec_of_effect (.decodeUnverified k s hs)
  · have hrange : slotInRange k s.actLen = false := decide_eq_false (Nat.not_le_of_lt hlt)
    exact exec_of_effect (.decodeRange k s hs hrange)
  · rw [exec_of_effect (.decode k s hs (slotInRange_iff.2 hle))]
    simp only [loadRecord, recSecond, recHourOf_eq_ofNat, recMinuteOf_eq_ofNat, recDayOf_eq_ofNat, recMonthOf_eq_ofNat,
      recDowOf_eq_ofNat, recYearOf_eq_ofNat, recValueOf_eq_ofNat]
    rfl

end Sys2Proof.Machine
end

section
/-! NOP, the two resets and the output `irq` (44_control.md R98, R99, R106). -/

namespace Sys2Proof.Machine

/-- Settles O34: NOP has one word and one outcome. -/
theorem nopOnlyReportsSuccess : Obligations.NopOnlyReportsSuccess :=
  ⟨onlyCmdWord_of_argAllowed_iff (op := 0x0) (a := 0) rfl (by decide), fun s => exec_of_effect (.nop s)⟩

/-- SOFT_RESET and RESET have the same outcome (R99, R125). -/
theorem exec_softReset_or_reset {i : Instr} (hi : i = .softReset ∨ i = .reset) (s : State) :
    exec i s = .next (resetAll s) := by
  rcases hi with rfl | rfl
  · exact exec_of_effect (.softReset s)
  · exact exec_of_effect (.reset s)

/-- Settles O35: SOFT_RESET has one word, and `resetAll` writes every element of R8. -/
theorem resetsPutEveryElementAtItsResetValue : Obligations.ResetsPutEveryElementAtItsResetValue :=
  ⟨onlyCmdWord_of_argAllowed_iff (op := 0xF) (a := 0xF) rfl (by decide),
    fun _ s hi => ⟨resetAll s, exec_softReset_or_reset hi s, rfl⟩⟩

theorem nibble_bne_zero (x : Nibble) :
    (x != 0) = (x.getLsbD 0 || x.getLsbD 1 || x.getLsbD 2 || x.getLsbD 3) := by
  revert x; decide

/-- No source is pending after a reset, so `irq` is 0 (R106). -/
theorem irq_resetAll (s : State) : irq (resetAll s) = false := by
  simp [irq]

/-- Settles O45: `irq` asks whether a nibble has a bit, and the AND is taken bit by bit. -/
theorem irqIsOrOfPendingAndEnabled : Obligations.IrqIsOrOfPendingAndEnabled := by
  refine ⟨fun i s t hi h => ?_, fun s => ⟨rfl, rfl⟩, fun s => ?_⟩
  · rw [exec_softReset_or_reset hi] at h
    cases h
    exact irq_resetAll s
  · rw [irq, nibble_bne_zero]
    simp only [BitVec.getLsbD_and]

end Sys2Proof.Machine
end

section
/-! What the control-register writes store (44_control.md R100 to R103), and the writes that store nothing (R105). -/

namespace Sys2Proof.Machine

/-- The bits an INT_EN or INT_PEND write uses, as a number: `v mod 16` (R61). -/
theorem lowNibble_eq_ofNat (v : Word) : lowNibble v = BitVec.ofNat 4 v.toNat := rfl

/-- The bits a CTRL write uses, as a number (R61). -/
theorem lowPair_toNat (v : Word) : (lowPair v).toNat = v.toNat % 4 := by
  simp [lowPair]

/-- A CTRL write whose two bits are the code of a sync mode stores that mode (R22, R100). -/
theorem exec_wrCtrl_of_code {v : Word} {m : SyncMode} (h : v.toNat % 4 = (syncCode m).toNat) (s : State) :
    exec (.wrCtrl v) s = .next { s with syncMode := m } := by
  have hcode : lowPair v = syncCode m := BitVec.eq_of_toNat_eq ((lowPair_toNat v).trans h)
  exact exec_of_effect (.wrCtrl v m s (hcode ▸ syncOfCode_code m))

/-- A CTRL write of the reserved 0b11 changes nothing (R100). -/
theorem exec_wrCtrl_of_reserved {v : Word} (h : v.toNat % 4 = 3) (s : State) : exec (.wrCtrl v) s = .next s := by
  have hcode : lowPair v = 0b11 := BitVec.eq_of_toNat_eq ((lowPair_toNat v).trans h)
  exact exec_of_effect (.wrCtrlKept v s (hcode ▸ rfl))

theorem irq_eq_decide (s : State) : irq s = decide (s.intPend &&& s.intEn ≠ 0) :=
  decide_not.symm

/-- Settles O38, write by write. -/
theorem controlWritesStoreTheirFields : Obligations.ControlWritesStoreTheirFields := by
  refine fun v s => ⟨⟨rfl, rfl, rfl, rfl⟩, fun h => ?_, fun h => ?_, fun h => ?_, fun h => ?_, ?_⟩
  · exact exec_wrCtrl_of_code (m := .none) h s
  · exact exec_wrCtrl_of_code (m := .strict) h s
  · exact exec_wrCtrl_of_code (m := .hunt) h s
  · exact exec_wrCtrl_of_reserved h s
  · rw [← lowByte_eq_ofNat, ← lowNibble_eq_ofNat]
    exact ⟨exec_of_effect (.wrRxLen v s), exec_of_effect (.wrIntEn v s), irq_eq_decide _, exec_of_effect (.wrIntPend v s)⟩

/-- The read-only registers and every offset after ID, the FB window among them, have no write row (R42, R44, R105). -/
theorem writeHasRow_eq_false {addr : WordAddr}
    (h : addr.toNat ∈ [0x02, 0x04, 0x06, 0x08, 0x0B, 0x0C, 0x0D, 0x0E] ∨ 0x0F ≤ addr.toNat) :
    writeHasRow addr = false := by
  revert addr; decide

/-- Settles O39: such an offset has no write row, and WR_IGNORED's one outcome is the state itself. -/
theorem writesToReadOnlyOffsetsAreIgnored : Obligations.WritesToReadOnlyOffsetsAreIgnored :=
  ⟨fun addr v s => exec_of_effect (.wrIgnored addr v s), fun _ v h => decodeWrite_of_no_row v (writeHasRow_eq_false h)⟩

end Sys2Proof.Machine
end

section
/-! Host reads (20_memory.md R49, 44_control.md R104): each of the three read rows notes the word at its offset. -/

namespace Sys2Proof.Machine

/-- RD_REG below the FB window notes the word at its offset (R104). -/
theorem exec_rdReg_of_lt {addr : WordAddr} (h : addr.toNat < 0x40) (s : State) :
    exec (.rdReg addr) s = .next (returnWord (busRead addr s) s) := by
  rw [busRead_of_lt h]
  exact exec_of_effect (.rdReg addr s)

/-- RD_CK_INFO notes the word at CK_INFO's offset (R69). -/
theorem exec_rdCkInfo (s : State) : exec .rdCkInfo s = .next (returnWord (busRead 0x08 s) s) :=
  exec_of_effect (.rdCkInfo s)

/-- RD_FB of a window address notes the word there (R43). -/
theorem exec_rdFb_of_le {addr : WordAddr} (h : 0x40 ≤ addr.toNat) (s : State) :
    exec (.rdFb (addr.extractLsb' 0 6)) s = .next (returnWord (busRead addr s) s) := by
  rw [busRead, if_neg (Nat.not_lt.2 h)]
  exact exec_of_effect (.rdFb _ s)

/-- Whatever row a read's offset selects, the read notes the word at that offset (R104). -/
theorem exec_decodeRead (addr : WordAddr) (s : State) :
    exec (decodeRead addr) s = .next (returnWord (busRead addr s) s) := by
  unfold decodeRead
  split_ifs with hlt hck
  · obtain rfl : addr = 0x08 := BitVec.eq_of_toNat_eq hck
    exact exec_rdCkInfo s
  · exact exec_rdReg_of_lt hlt s
  · exact exec_rdFb_of_le (Nat.le_of_not_lt hlt) s

/-- Settles O40: all reads, and the two register rows, note the word at their offset and do no more. -/
theorem readsReturnTheirWordAndChangeNothing : Obligations.ReadsReturnTheirWordAndChangeNothing :=
  ⟨exec_decodeRead, fun _ s h => exec_rdReg_of_lt h s, exec_rdCkInfo⟩

end Sys2Proof.Machine
end

section
/-! What an operation can do to the pending bits, and their sources (60_exceptions.md R113, R114); how ERROR is left
(R119). -/

namespace Sys2Proof.Machine

/-! ### What an operation can do to `int_pend` -/

/-- What an operation does to `int_pend`: the outcomes of `Effect` with what tells the source of a bit, and nothing said of
the rest. -/
inductive PendEffect : Instr → State → State → Prop
  | kept {i s t} (hp : t.intPend = s.intPend) (hst : t.rxState = s.rxState ∨ (t.rxState ≠ .done ∧ t.rxState ≠ .error)) :
      PendEffect i s t
  | frameDone {i s t} (hp : t.intPend = s.intPend ||| pendRxDone) (hs : s.rxState ≠ .done) (ht : t.rxState = .done) :
      PendEffect i s t
  | frameError {i s t} (hp : t.intPend = s.intPend ||| pendRxErr) (hs : s.rxState ≠ .error) (ht : t.rxState = .error) :
      PendEffect i s t
  | taken (s) : PendEffect .txTake s (takeHeld s)
  | commandError {i} (c s) (hi : i.format = .cmd ∨ ∃ v, i = .wrTxData v) (hc : c ≠ .ok) : PendEffect i s (raiseCmdError c s)
  | cleared (v s) : PendEffect (.wrIntPend v) s (clearPend (lowNibble v) s)
  | wasReset {i} (s) (hi : i = .softReset ∨ i = .reset) : PendEffect i s (resetAll s)

/-- Where a frame is open, the receiver is not in ERROR. -/
theorem rxState_ne_error_of_open {s : State} (h : s.rxState = .hunt ∨ s.rxState = .accum) : s.rxState ≠ .error := by
  rcases h with h | h <;> simp [h]

theorem pendEffect_accumulate {i : Instr} {s : State} (b : Byte) (h : s.rxState = .accum) :
    PendEffect i s (accumulate b s) := by
  rcases accumulate_storeByte b s with ⟨-, ha⟩ | ⟨-, -, ha⟩ | ⟨-, -, ha⟩ <;> rw [ha]
  · exact .kept rfl (.inl rfl)
  · exact .frameDone rfl (by simp [h]) rfl
  · exact .frameError rfl (by simp [h]) rfl

/-- An operation that answers a next state does one of these to `int_pend`. -/
theorem pendEffect_of_effect {i : Instr} {s t : State} (e : Effect i s t) : PendEffect i s t := by
  cases e
  case rxArm | rxArmOp | rxClear | rxbyteHuntNone | rxbyteHuntStrict | rxbyteHuntHunt => exact .kept rfl (.inr ⟨nofun, nofun⟩)
  case rxTimeoutCmd h | rxTimeoutEvt h => exact .frameError rfl (rxState_ne_error_of_open h) rfl
  case rxbyteHuntStrictBad b hb h hm => exact .frameError rfl (rxState_ne_error_of_open (.inl h)) rfl
  case rxbyteAccum b h => exact pendEffect_accumulate b h
  case txTake => exact .taken s
  case rxArmBad | rxArmOpBad | txStartSeq | txStartOverrun | txEndSeq | txEndOverrun | decodeUnverified | decodeRange
    | reservedA | reservedB | reservedC | reservedD | reservedE | cmdNonzeroZ => exact .commandError _ s (.inl rfl) nofun
  case wrTxDataSeq v _ | wrTxDataOverrun v _ _ => exact .commandError _ s (.inr ⟨v, rfl⟩) nofun
  case wrIntPend v => exact .cleared v s
  case softReset => exact .wasReset s (.inl rfl)
  case reset => exact .wasReset s (.inr rfl)
  all_goals exact .kept rfl (.inl rfl)

/-! ### The four bits -/

@[simp] theorem getLsbD_pendRxDone (k : Nat) : pendRxDone.getLsbD k = decide (0 = k) := BitVec.getLsbD_twoPow 0 k

@[simp] theorem getLsbD_pendRxErr (k : Nat) : pendRxErr.getLsbD k = decide (1 = k) := BitVec.getLsbD_twoPow 1 k

@[simp] theorem getLsbD_pendTxReady (k : Nat) : pendTxReady.getLsbD k = decide (2 = k) := BitVec.getLsbD_twoPow 2 k

@[simp] theorem getLsbD_pendCmdErr (k : Nat) : pendCmdErr.getLsbD k = decide (3 = k) := BitVec.getLsbD_twoPow 3 k

/-- The source of pending bit `k` has fired in the operation that leads from `s` to `t` (R113). -/
def pendSource (i : Instr) (s t : State) : Nat → Prop
  | 0 => s.rxState ≠ .done ∧ t.rxState = .done
  | 1 => s.rxState ≠ .error ∧ t.rxState = .error
  | 2 => i = .txTake
  | 3 => t.cmdErr ≠ .ok ∧ (i.format = .cmd ∨ ∃ v, i = .wrTxData v)
  | _ => False

/-- The bit that an added one-bit mask has set is the mask's. -/
theorem getLsbD_of_or {x y p : Nibble} {k : Nat} (hy : y = x ||| p) (h0 : x.getLsbD k = false) (h1 : y.getLsbD k = true) :
    p.getLsbD k = true := by
  simpa [hy, h0] using h1

/-- Nothing but its source sets a pending bit (R113). -/
theorem pendSource_of_getLsbD_intPend {i : Instr} {s t : State} {k : Nat} (e : PendEffect i s t) (h0 : s.intPend.getLsbD k = false)
    (h1 : t.intPend.getLsbD k = true) : pendSource i s t k := by
  cases e with
  | kept hp _ => rw [hp, h0] at h1; cases h1
  | frameDone hp hs ht =>
    obtain rfl : 0 = k := by simpa using getLsbD_of_or hp h0 h1
    exact ⟨hs, ht⟩
  | frameError hp hs ht =>
    obtain rfl : 1 = k := by simpa using getLsbD_of_or hp h0 h1
    exact ⟨hs, ht⟩
  | taken =>
    obtain rfl : 2 = k := by simpa using getLsbD_of_or (p := pendTxReady) rfl h0 h1
    exact rfl
  | commandError c _ hi hc =>
    obtain rfl : 3 = k := by simpa using getLsbD_of_or (p := pendCmdErr) rfl h0 h1
    exact ⟨hc, hi⟩
  | cleared v => simp [h0] at h1
  | wasReset => simp at h1

/-- The receiver's two sources leave their bit 1, whatever it was (R113). -/
theorem getLsbD_intPend_of_rxState_entered {i : Instr} {s t : State} (e : PendEffect i s t) :
    (s.rxState ≠ .done → t.rxState = .done → t.intPend.getLsbD 0 = true) ∧
    (s.rxState ≠ .error → t.rxState = .error → t.intPend.getLsbD 1 = true) := by
  cases e with
  | kept _ hst =>
    rcases hst with hst | ⟨hd, he⟩
    · rw [hst]; exact ⟨fun hs ht => absurd ht hs, fun hs ht => absurd ht hs⟩
    · exact ⟨fun _ h => absurd h hd, fun _ h => absurd h he⟩
  | frameDone hp _ ht => simp [hp, ht]
  | frameError hp _ ht => simp [hp, ht]
  | taken | commandError | cleared => exact ⟨fun hs ht => absurd ht hs, fun hs ht => absurd ht hs⟩
  | wasReset => exact ⟨nofun, nofun⟩

/-- A write that leaves an error code leaves CMD_ERR's bit 1 (R111, R113). -/
theorem getLsbD_intPend_of_cmdErr {i : Instr} {s t : State} (e : Effect i s t) (hi : reportsResult i) (hc : t.cmdErr ≠ .ok) :
    t.intPend.getLsbD 3 = true := by
  by_cases hr : i = .softReset
  · subst hr; cases e; exact absurd rfl hc
  · rcases succeeds_or_raises hi hr e with ⟨hok, -⟩ | ⟨-, hraise⟩
    · exact absurd hok hc
    · rw [hraise]; simp

/-- Settles O46, by what an operation can do to `int_pend`; that a command error sets its bit is R111. -/
theorem pendingBitsAreSetByTheirSourcesOnly : Obligations.PendingBitsAreSetByTheirSourcesOnly := by
  intro i s t h
  have e := effect_of_exec h
  have p := pendEffect_of_effect e
  obtain ⟨hdone, herror⟩ := getLsbD_intPend_of_rxState_entered p
  have hsource {k : Nat} : s.intPend.getLsbD k = false → t.intPend.getLsbD k = true → pendSource i s t k :=
    pendSource_of_getLsbD_intPend p
  refine ⟨hsource, hsource, hsource, hsource, hdone, herror, ?_, ?_⟩
  · rintro rfl
    cases e; simp
  · exact fun hi hc => getLsbD_intPend_of_cmdErr e (hi.imp_right .inl) hc

/-- Settles O47: an INT_PEND write clears the bits of its value, a reset clears all, and nothing else clears one. -/
theorem pendingBitsStayUntilCleared : Obligations.PendingBitsStayUntilCleared := by
  intro i s t k h h1 h0
  cases pendEffect_of_effect (effect_of_exec h) with
  | kept hp _ => rw [hp, h1] at h0; cases h0
  | frameDone hp _ _ | frameError hp _ _ => simp [hp, h1] at h0
  | taken | commandError => simp [takeHeld, h1] at h0
  | wasReset _ hi => exact .inr hi
  | cleared v =>
    have hk : k < 4 := BitVec.lt_of_getLsbD h1
    have hv : (lowNibble v).getLsbD k = true := by simpa [h1, hk] using h0
    exact .inl ⟨v, rfl, by simpa [lowNibble, hk] using hv⟩

/-! ### How ERROR is left -/

/-- Settles O49: every other effect on the receiver keeps its state or starts from a state that is not ERROR. -/
theorem errorIsLeftOnlyByArmClearOrReset : Obligations.ErrorIsLeftOnlyByArmClearOrReset := by
  intro i s t h hs ht
  cases rxEffect_of_exec h with
  | kept hf _ => exact absurd (hf.rxState.trans hs) ht
  | expired ho _ _ => exact absurd hs (rxState_ne_error_of_open ho)
  | dropped | recordLoaded => exact absurd hs ht
  | syncLost _ _ ho | skipped _ _ ho | started _ _ _ ho | stored _ _ ho => rw [ho] at hs; cases hs
  | armed _ _ hi _ => exact hi.imp_right .inl
  | cleared => exact .inr (.inr (.inl rfl))
  | wasReset _ hi => exact .inr (.inr (.inr hi))

end Sys2Proof.Machine
end

section
/-! A clock cycle and its steps (60_exceptions.md R117): a cycle is its next event followed by the cycle of what is left of
the edge, and so is the run of steps that uses up the edge. -/

namespace Sys2Proof.Machine

/-! ### A cycle is its next event and then the rest -/

/-- `e` is the next event at the edge `c`, and `left` is what is left of the edge: the cases of `nextEvent` with an event. -/
inductive NextEvent (c : PortCycle) (s : State) : PortEvent → PortCycle → Prop
  | reset (hrst : c.rst = true) : NextEvent c s .reset PortCycle.idle
  | access (a) (hrst : c.rst = false) (hacc : c.access = some a) : NextEvent c s (.access a) { c with access := none }
  | txTake (hrst : c.rst = false) (hacc : c.access = none) (hready : c.txReady = true) (hb : s.txBusy = true) :
      NextEvent c s .txTake { c with txReady := false }
  | rxByte (b) (hrst : c.rst = false) (hacc : c.access = none) (htake : (c.txReady && s.txBusy) = false)
      (hrx : c.rxData = some b) : NextEvent c s (.rxByte b) { c with rxData := none }
  | rxTimeout (hrst : c.rst = false) (hacc : c.access = none) (htake : (c.txReady && s.txBusy) = false)
      (hrx : c.rxData = none) (hto : c.rxTimeout = true) : NextEvent c s .rxTimeout { c with rxTimeout := false }

theorem nextEvent_some {c left : PortCycle} {s : State} {e : PortEvent} (hn : nextEvent c s = some (e, left)) :
    NextEvent c s e left := by
  rcases nextEvent_cases c s with ⟨hrst, he⟩ | ⟨hrst, a, hacc, he⟩ | ⟨hrst, hacc, hready, hb, he⟩ |
    ⟨hrst, hacc, htake, b, hrx, he⟩ | ⟨hrst, hacc, htake, hrx, hto, he⟩ | ⟨-, -, -, -, -, he⟩ <;>
    rw [hn] at he <;> cases he
  · exact .reset hrst
  · exact .access a hrst hacc
  · exact .txTake hrst hacc hready hb
  · exact .rxByte b hrst hacc htake hrx
  · exact .rxTimeout hrst hacc htake hrx hto

/-- A received byte and a timeout leave the hold register alone, so neither makes a take possible. -/
theorem txBusy_of_port_effect {i : Instr} {s t : State} (hp : i.format = .port) (htake : i ≠ .txTake) (hreset : i ≠ .reset)
    (e : Effect i s t) : t.txBusy = s.txBusy := by
  cases e
  case txTake => exact absurd rfl htake
  case reset => exact absurd rfl hreset
  case rxbyteAccum b _ => exact accumulate_txBusy b s
  case rxbyteDrop | rxbyteHuntNone | rxbyteHuntStrict | rxbyteHuntStrictBad | rxbyteHuntHunt | rxbyteHuntHuntSkip
    | rxTimeoutEvt | rxTimeoutEvtKept => rfl
  all_goals cases hp

theorem txBusy_of_rxByte {st : RxState} {m : SyncMode} {b : Byte} {s t : State} (e : Effect (decodeRxByte st m b) s t) :
    t.txBusy = s.txBusy := by
  obtain ⟨hport, hreset⟩ : (decodeRxByte st m b).format = .port ∧ decodeRxByte st m b ≠ .reset := by
    cases st with
    | hunt => cases m <;> exact ⟨rfl, nofun⟩
    | idle | accum | done | error => exact ⟨rfl, nofun⟩
  exact txBusy_of_port_effect hport (decodeRxByte_ne_txTake st m b) hreset e

/-- A cycle with no event left at its edge changes nothing. -/
theorem clockCycle_of_no_event {c : PortCycle} {s : State} (hn : nextEvent c s = none) : clockCycle c s = .next s := by
  rcases nextEvent_cases c s with ⟨-, he⟩ | ⟨-, a, -, he⟩ | ⟨-, -, -, -, he⟩ | ⟨-, -, -, b, -, he⟩ | ⟨-, -, -, -, -, he⟩ |
    ⟨hrst, hacc, htake, hrx, hto, -⟩
  case inr.inr.inr.inr.inr => simp [clockCycle, stageAccess, stageTake, stageRxByte, stageTimeout, hrst, hacc, htake, hrx, hto]
  all_goals rw [hn] at he; cases he

/-- R117: a cycle is its next event, and then the cycle of what is left of the edge. -/
theorem clockCycle_of_nextEvent {c left : PortCycle} {s u : State} {e : PortEvent} (hn : nextEvent c s = some (e, left))
    (hu : Effect (decodeEvent s.rxState s.actMode e) s u) : clockCycle c s = clockCycle left u := by
  have hrun : runEvent e s = .next u := exec_of_effect hu
  cases nextEvent_some hn with
  | reset hrst => simp [clockCycle, hrst, hrun, PortCycle.idle, stageAccess, stageTake, stageRxByte, stageTimeout]
  -- After an access or a take, the later stages of the edge are those of what is left of it, by computation.
  | access a hrst hacc =>
    simp only [clockCycle, hrst, hacc, hrun, stageAccess, andThen_next, Bool.false_eq_true, if_false]
    rfl
  | txTake hrst hacc hready hb =>
    simp only [clockCycle, hrst, hacc, hready, hb, hrun, stageAccess, stageTake, andThen_next, Bool.and_self,
      Bool.false_eq_true, if_false, if_true]
    rfl
  -- After a byte or a timeout, the hold register is as it was, so there is still no take.
  | rxByte b hrst hacc htake hrx =>
    have hub : u.txBusy = s.txBusy := txBusy_of_rxByte hu
    simp [clockCycle, hrst, hacc, hub, htake, hrx, hrun, stageAccess, stageTake, stageRxByte, stageTimeout]
  | rxTimeout hrst hacc htake hrx hto =>
    have hub : u.txBusy = s.txBusy := txBusy_of_port_effect (i := .rxTimeoutEvt) rfl nofun nofun hu
    simp [clockCycle, hrst, hacc, hub, htake, hrx, hto, hrun, stageAccess, stageTake, stageRxByte, stageTimeout]

/-! ### The steps of an edge -/

/-- The number of events that can still come at an edge. -/
def eventsLeft (c : PortCycle) : Nat :=
  if c.rst then 1 else c.access.isSome.toNat + c.txReady.toNat + c.rxData.isSome.toNat + c.rxTimeout.toNat

theorem eventsLeft_le (c : PortCycle) : eventsLeft c ≤ 4 := by
  unfold eventsLeft
  split
  · omega
  · have hacc := Bool.toNat_le c.access.isSome
    have hready := Bool.toNat_le c.txReady
    have hrx := Bool.toNat_le c.rxData.isSome
    have hto := Bool.toNat_le c.rxTimeout
    omega

/-- An event uses up its place at the edge, and a reset the whole edge. -/
theorem eventsLeft_of_nextEvent {c left : PortCycle} {s : State} {e : PortEvent} (hn : nextEvent c s = some (e, left)) :
    eventsLeft left + 1 = eventsLeft c := by
  cases nextEvent_some hn with
  | reset hrst => simp [eventsLeft, hrst, PortCycle.idle]
  | access a hrst hacc => simp [eventsLeft, hrst, hacc]; omega
  | txTake hrst hacc hready _ => simp [eventsLeft, hrst, hacc, hready]; omega
  | rxByte b hrst hacc _ hrx => simp [eventsLeft, hrst, hacc, hrx]; omega
  | rxTimeout hrst hacc _ hrx hto => simp [eventsLeft, hrst, hacc, hrx, hto]

/-- The steps that use up an edge lead where its cycle does: one for each event, and one for the end of the edge. -/
theorem exists_run_eq_clockCycle (c : PortCycle) (rest : List PortCycle) (s : State) :
    ∃ n, 1 ≤ n ∧ n ≤ eventsLeft c + 1 ∧
      Host.Core.run Sys2Proof.core n (withInputs (c :: rest) s) = clockCycle c (withInputs rest s) := by
  cases hn : nextEvent c s with
  | none =>
    have hover : step (withInputs (c :: rest) s) = .next (withInputs rest s) := step_of_edge_over rfl hn
    refine ⟨1, le_rfl, by omega, ?_⟩
    rw [clockCycle_of_no_event (s := withInputs rest s) hn]
    exact run_succ_of_step (M := Sys2Proof.core) hover 0
  | some p =>
    obtain ⟨e, left⟩ := p
    obtain ⟨u, hu⟩ := exec_answers_of_nextEvent hn s.inputs
    have he : Effect (decodeEvent s.rxState s.actMode e) s u := effect_of_exec hu
    have hexec : exec (decodeEvent s.rxState s.actMode e) (withInputs (left :: rest) s) = .next (withInputs (left :: rest) u) :=
      exec_of_effect (effect_withInputs (left :: rest) he)
    have hstep : step (withInputs (c :: rest) s) = .next (withInputs (left :: rest) u) :=
      (step_of_nextEvent (s := withInputs (c :: rest) s) rfl hn).trans hexec
    have hless : eventsLeft left + 1 = eventsLeft c := eventsLeft_of_nextEvent hn
    obtain ⟨n, -, hle, hrun⟩ := exists_run_eq_clockCycle left rest u
    refine ⟨n + 1, by omega, by omega, ?_⟩
    have hcycle : clockCycle c (withInputs rest s) = clockCycle left (withInputs rest u) :=
      clockCycle_of_nextEvent hn (effect_withInputs rest he)
    rw [hcycle, ← hrun]
    exact run_succ_of_step (M := Sys2Proof.core) hstep n
termination_by eventsLeft c

/-- Settles O53, by the events left at the edge, of which there are at most four. -/
theorem stepsOfAnEdgeComposeInFixedOrder : Obligations.StepsOfAnEdgeComposeInFixedOrder := by
  intro s c rest hi
  obtain ⟨n, h1, hle, hrun⟩ := exists_run_eq_clockCycle c rest s
  have hs : withInputs (c :: rest) s = s := by rw [withInputs, ← hi]
  rw [hs] at hrun
  have hmax : eventsLeft c ≤ 4 := eventsLeft_le c
  exact ⟨n, h1, by omega, hrun⟩

end Sys2Proof.Machine
end

section
/-! Two events in one clock cycle (60_exceptions.md R115, R117). -/

namespace Sys2Proof.Machine

/-! ### A host access and one line event, and a byte with a timeout -/

/-- An outcome of an RXBYTE row is an outcome of the byte: the row has outcomes only in the states that select it. -/
theorem effect_decodeRxByte {i : Instr} {b : Byte} {s t : State} (e : Effect i s t) (hi : encode i = .rxByte b) :
    Effect (decodeRxByte s.rxState s.actMode b) s t := by
  have hsel : i.selectedBy s.rxState s.actMode = true := by
    cases e
    case rxbyteDrop h => rcases h with h | h | h <;> simp [Instr.selectedBy, h]
    case rxbyteHuntNone h hm | rxbyteHuntStrict h hm | rxbyteHuntStrictBad _ h hm | rxbyteHuntHunt h hm
      | rxbyteHuntHuntSkip _ h hm => simp [Instr.selectedBy, h, hm]
    case rxbyteAccum h => simp [Instr.selectedBy, h]
    all_goals rfl
  rwa [decodeRxByte_of_selectedBy hi hsel]

/-- A cycle that carries one event and nothing else is that event. -/
theorem clockCycle_ofEvent {e : PortEvent} {s t : State} (h : Effect (decodeEvent s.rxState s.actMode e) s t) :
    clockCycle (PortCycle.ofEvent e) s = .next t := by
  have htake : e = .txTake → s.txBusy = true := by
    rintro rfl
    cases h
    assumption
  rw [clockCycle_of_nextEvent (nextEvent_ofEvent htake) h]
  rfl

section
variable {a : Access} {s u t : State}

theorem clockCycle_access_take (ha : Effect (decodeAccess a) s u) (hb : u.txBusy = true) :
    clockCycle { PortCycle.idle with access := some a, txReady := true } s = .next (takeHeld u) :=
  (clockCycle_of_nextEvent (e := .access a) rfl ha).trans (clockCycle_ofEvent (e := .txTake) (.txTake u hb))

theorem clockCycle_access_timeout (ha : Effect (decodeAccess a) s u) (ht : Effect .rxTimeoutEvt u t) :
    clockCycle { PortCycle.idle with access := some a, rxTimeout := true } s = .next t :=
  (clockCycle_of_nextEvent (e := .access a) rfl ha).trans (clockCycle_ofEvent (e := .rxTimeout) ht)

theorem clockCycle_access_rxRow {i : Instr} {b : Byte} (ha : Effect (decodeAccess a) s u) (hb : Effect i u t)
    (hi : encode i = .rxByte b) :
    clockCycle { PortCycle.idle with access := some a, rxData := some b } s = .next t :=
  clockCycle_access_rxByte (exec_of_effect ha) (exec_of_effect (effect_decodeRxByte hb hi))

/-- `tx_ready = 1` in a cycle whose access leaves no byte held is no event (R62). -/
theorem clockCycle_access_no_take (ha : Effect (decodeAccess a) s u) (hb : u.txBusy = false) :
    clockCycle { PortCycle.idle with access := some a, txReady := true } s = .next u :=
  (clockCycle_of_nextEvent (e := .access a) rfl ha).trans (clockCycle_of_no_event (by simp [nextEvent, PortCycle.idle, hb]))

theorem clockCycle_rxRow_timeout {i : Instr} {b : Byte} (hb : Effect i s u) (hi : encode i = .rxByte b)
    (ht : Effect .rxTimeoutEvt u t) :
    clockCycle { PortCycle.idle with rxData := some b, rxTimeout := true } s = .next t :=
  (clockCycle_of_nextEvent (e := .rxByte b) rfl (effect_decodeRxByte hb hi)).trans (clockCycle_ofEvent (e := .rxTimeout) ht)

end

/-- A first byte makes the frame of that byte alone, whatever FB held. -/
theorem framePrefix_startFrame (b : Byte) (s : State) : framePrefix (startFrame b s) = [b] := by
  show [fbByte (startFrame b s) 0] = [b]
  rw [fbByte_of_insert_same (startFrame_fb b s)]

/-! ### Setting wins over clearing -/

/-- Settles O55: the INT_PEND write comes first, and the line event sets its bit on the state that write left. -/
theorem setWinsOverClearInOneCycle : Obligations.SetWinsOverClearInOneCycle := by
  intro s v
  have hclear : Effect (decodeAccess (.write 0x09 v)) s (clearPend (lowNibble v) s) := .wrIntPend v s
  refine ⟨fun hb => ?_, fun b hs hn h0 => ?_, fun b hs hn h0 => ?_, fun b hs hm hb => ?_, fun hs => ?_⟩
  · exact ⟨_, clockCycle_access_take hclear hb, by simp [takeHeld]⟩
  · refine ⟨_, clockCycle_access_rxRow hclear (.rxbyteAccum b _ hs) rfl, ?_⟩
    rw [accumulate_of_verified (s := clearPend (lowNibble v) s) hn h0]
    simp [withOutcome]
  · refine ⟨_, clockCycle_access_rxRow hclear (.rxbyteAccum b _ hs) rfl, ?_⟩
    rw [accumulate_of_bad_sum (s := clearPend (lowNibble v) s) hn h0]
    simp [withOutcome]
  · exact ⟨_, clockCycle_access_rxRow hclear (.rxbyteHuntStrictBad b _ hs hm hb) rfl, by simp⟩
  · exact ⟨_, clockCycle_access_timeout hclear (.rxTimeoutEvt _ hs), by simp⟩

/-! ### The listed consequences of the order -/

/-- The two words of O54 that arm: RX_ARM with a length in RX_LEN, and RX_ARM_OP with an index of LEN_ROM (R80, R81). -/
theorem exists_effect_arm {s : State} {w : Word}
    (hw : (w = 0x00000001 ∧ 7 ≤ s.rxLen.toNat) ∨ ∃ a : Nibble, a.toNat ≤ 8 ∧ w = cmdWord 0 a 0x2) :
    ∃ len, Effect (decodeAccess (.write 0x01 w)) s (armCommon len s) := by
  rcases hw with ⟨rfl, hl⟩ | ⟨a, ha, rfl⟩
  · exact ⟨s.rxLen, .rxArm s hl⟩
  · rcases lenRom_cases a with ⟨len, hlen, -, hmin⟩ | ⟨-, hge⟩
    · refine ⟨len, ?_⟩
      show Effect (decodeCmd (cmdWord 0 a 0x2)) s (armCommon len s)
      rw [decodeCmd_cmdWord_rxArmOp]
      exact .rxArmOp a len s hlen hmin
    · omega

/-- Arming and a byte in one cycle: the byte is the new frame's first, or is treated as the sync mode says (R85 to R87). -/
theorem clockCycle_arm_rxByte {s : State} {w : Word} {len : Byte} (b : Byte)
    (harm : Effect (decodeAccess (.write 0x01 w)) s (armCommon len s)) :
    ∃ t, clockCycle { PortCycle.idle with access := some (.write 0x01 w), rxData := some b } s = .next t ∧
      t.actMode = s.syncMode ∧ t.rxDrop = false ∧
      (s.syncMode = .none ∨ b = 0x55 →
        t.rxState = .accum ∧ t.rxErr = .none ∧ framePrefix t = [b] ∧ t.rxSum = b ∧ t.rxSkip = 0) ∧
      (s.syncMode = .strict → b ≠ 0x55 → t.rxState = .error ∧ t.rxErr = .sync ∧ t.rxCount = 0) ∧
      (s.syncMode = .hunt → b ≠ 0x55 → t.rxState = .hunt ∧ t.rxCount = 0 ∧ t.rxSkip = 1) := by
  by_cases hfirst : s.syncMode = .none ∨ b = 0x55
  · have hb : s.syncMode ≠ .none → b = Config.sync := hfirst.resolve_left
    have hstart := exec_of_effect (effect_rxByte_of_hunt (s := armCommon len s) rfl hb)
    refine ⟨_, clockCycle_access_rxByte (exec_of_effect harm) hstart, rfl, rfl, fun _ => ?_, fun hm hne => ?_, fun hm hne => ?_⟩
    · exact ⟨rfl, rfl, framePrefix_startFrame b _, rfl, rfl⟩
    · exact absurd (hb (by simp [hm])) hne
    · exact absurd (hb (by simp [hm])) hne
  · obtain ⟨hnone, hne⟩ := not_or.1 hfirst
    cases hm : s.syncMode with
    | none => exact absurd hm hnone
    | strict =>
      exact ⟨_, clockCycle_access_rxRow harm (.rxbyteHuntStrictBad b _ rfl hm hne) rfl, hm, rfl,
        fun h => absurd (hm ▸ h) hfirst, fun _ _ => ⟨rfl, rfl, rfl⟩, nofun⟩
    | hunt =>
      exact ⟨_, clockCycle_access_rxRow harm (.rxbyteHuntHuntSkip b _ rfl hm hne) rfl, hm, rfl,
        fun h => absurd (hm ▸ h) hfirst, nofun, fun _ _ => ⟨rfl, rfl, rfl⟩⟩

/-- Settles O54, consequence by consequence: each event acts on the state the one before it left. -/
theorem sameCycleConsequences : Obligations.SameCycleConsequences := by
  refine ⟨fun s b hs hn h0 => ?_, fun s w b hw => ?_, fun s b hs => ?_, fun s v ho hb => ?_, fun s => ?_⟩
  · have ha : accumulate b s = _ := accumulate_of_verified hn h0
    refine ⟨_, clockCycle_rxRow_timeout (.rxbyteAccum b s hs) rfl (.rxTimeoutEvtKept _ ?_ ?_), ?_⟩ <;> rw [ha]
    · nofun
    · nofun
    · exact ⟨rfl, rfl⟩
  · obtain ⟨len, harm⟩ := exists_effect_arm hw
    exact clockCycle_arm_rxByte b harm
  · have hexpire : Effect (decodeAccess (.write 0x01 0x4)) s (raiseRxError .incomplete (commandOk s)) :=
      .rxTimeoutCmd s (.inr hs)
    exact ⟨_, clockCycle_access_rxRow hexpire (.rxbyteDrop b _ (.inr (.inr rfl))) rfl, rfl, rfl, rfl, rfl⟩
  · have hrefused : Effect (decodeAccess (.write 0x05 v)) s (raiseCmdError .txOverrun s) := .wrTxDataOverrun v s ho hb
    exact ⟨_, clockCycle_access_take hrefused hb, rfl, rfl, rfl⟩
  · have habort : Effect (decodeAccess (.write 0x01 0x7)) s (commandOk (emptyHold { s with txOpen := false })) := .txAbort s
    exact ⟨_, clockCycle_access_no_take habort rfl, rfl, rfl⟩

end Sys2Proof.Machine
end

section
/-! Reset and its hazards (70_reset_and_hazards.md): what reads return while no byte of a frame is held and no record is valid
(R127, R133), the reset state, and the clock edge that carries a reset (R117, R125). -/

namespace Sys2Proof.Machine

/-! ### Reads with no frame and no record -/

theorem fbWord_of_rxCount_eq_zero {s : State} (hc : s.rxCount = 0) (j : BitVec 6) : fbWord s j = 0 := by
  have hmask (i : Nat) : fbMasked s i = 0 := if_neg (by simp [hc])
  simp only [fbWord, hmask]
  rfl

/-- While the frame has no byte, the whole FB window reads 0 (R43). -/
theorem busRead_fbWindow_of_rxCount_eq_zero {addr : WordAddr} {s : State} (ha : 0x40 ≤ addr.toNat) (hc : s.rxCount = 0) :
    busRead addr s = 0 :=
  (if_neg (Nat.not_lt.2 ha)).trans (fbWord_of_rxCount_eq_zero hc _)

/-- A cleared record reads 0 in all three REC registers (R21, R33 to R35). -/
theorem busRead_rec_clearRecord (s : State) :
    busRead 0x0B (clearRecord s) = 0 ∧ busRead 0x0C (clearRecord s) = 0 ∧ busRead 0x0D (clearRecord s) = 0 :=
  ⟨BitVec.eq_of_toNat_eq (regRecA_toNat (clearRecord s)), BitVec.eq_of_toNat_eq (regRecB_toNat (clearRecord s)), rfl⟩

/-! ### The operations that begin anew (R133) -/

/-- The operations that clear the drop flag also empty the frame and clear the record, unless they report an error. -/
theorem frame_and_record_of_clearsDrop {i : Instr} {s t : State} (e : Effect i s t) (hi : clearsDrop i)
    (hok : t.cmdErr = .ok) : t.rxCount = 0 ∧ t = clearRecord t := by
  rcases hi with rfl | ⟨a, rfl⟩ | rfl | rfl | rfl <;> cases e
  case rxArmBad | rxArmOpBad => cases hok
  all_goals exact ⟨rfl, rfl⟩

/-- Settles O52: an empty frame hides FB behind its mask, and a cleared record reads 0. -/
theorem rearmingHidesThePreviousFrame : Obligations.RearmingHidesThePreviousFrame := by
  intro i s t hi h hok
  obtain ⟨hcount, hclear⟩ := frame_and_record_of_clearsDrop (effect_of_exec h) hi hok
  rw [hclear]
  obtain ⟨ha, hb, hvalue⟩ := busRead_rec_clearRecord t
  exact ⟨fun addr haddr => busRead_fbWindow_of_rxCount_eq_zero haddr hcount, ha, hb, hvalue, rfl⟩

/-! ### After a reset -/

/-- After a reset every offset behind ID reads 0: a reserved one always, one of the FB window for want of a frame (R127). -/
theorem busRead_resetAll_after_id {addr : WordAddr} (ha : 0x0F ≤ addr.toNat) (s : State) : busRead addr (resetAll s) = 0 := by
  by_cases hw : addr.toNat < 0x40
  · rw [busRead_of_lt hw, readReg_of_reserved ha]
  · exact busRead_fbWindow_of_rxCount_eq_zero (Nat.not_lt.1 hw) (resetAll_rxCount s)

/-- The standalone checksum unit after a reset: nothing summed, which is a valid sum (R30, R69). -/
theorem regCkInfo_resetAll (s : State) : regCkInfo (resetAll s) = 0x00010000 := by
  show (0 : Byte) ++ (0 : BitVec 7) ++ BitVec.ofBool ((0 : Byte) == 0) ++ neg8 0 ++ (0 : Byte) = _
  decide

/-- The control and information registers after a reset: the sums of their fields' reset values (R22 to R36, R127). -/
theorem registers_resetAll (s : State) :
    regCtrl (resetAll s) = 0x00000001 ∧ regStatus (resetAll s) = 0x00001000 ∧ regRxLen (resetAll s) = 0 ∧
      regRxInfo (resetAll s) = 0 ∧ regTxInfo (resetAll s) = 0 ∧ regCkInfo (resetAll s) = 0x00010000 ∧
      regIntPend (resetAll s) = 0 ∧ regIntEn (resetAll s) = 0 :=
  have hword {x w : Word} (h : x.toNat = w.toNat) : x = w := BitVec.eq_of_toNat_eq h
  ⟨hword (zero_append_toNat _), hword (regStatus_toNat _), hword (zero_append_toNat _), hword (regRxInfo_toNat _),
    hword (regTxInfo_toNat _), regCkInfo_resetAll s, hword (zero_append_toNat _), hword (zero_append_toNat _)⟩

/-- Settles O37: both resets have the outcome `resetAll`, and each register is composed of the reset values of its fields. -/
theorem registersAndOutputsAfterReset : Obligations.RegistersAndOutputsAfterReset := by
  intro i s t hi h
  rw [exec_softReset_or_reset hi] at h
  cases h
  obtain ⟨hctrl, hstatus, hrxLen, hrxInfo, htxInfo, hckInfo, hintPend, hintEn⟩ := registers_resetAll s
  obtain ⟨ha, hb, hvalue⟩ := busRead_rec_clearRecord (resetAll s)
  exact ⟨hctrl, hstatus, hrxLen, hrxInfo, htxInfo, hckInfo, hintPend, hintEn, ha, hb, hvalue, rfl, rfl, rfl, rfl,
    fun addr haddr => busRead_resetAll_after_id haddr s, irq_resetAll s, rfl, rfl⟩

/-- Settles O59: clearing the receiver of the reset state leaves that state as it is, so RX_CLEAR's lemma speaks of it. -/
theorem resetStateMeetsTheInvariant : Obligations.ResetStateMeetsTheInvariant :=
  restartReceiver_stateInv (st := .idle) (s := State.reset) (.inl rfl) rfl (fun _ => rfl) (.inl ⟨rfl, rfl⟩)

/-! ### The edge of a reset -/

/-- A reset is the next event of its edge whatever else the edge carries, and leaves nothing of it (R117, R125). -/
theorem nextEvent_of_rst {c : PortCycle} (hrst : c.rst = true) (s : State) :
    nextEvent c s = some (.reset, PortCycle.idle) := if_pos hrst

theorem run_two_of_steps {s u t : State} (hsu : step s = .next u) (hut : step u = .next t) :
    Host.Core.run Sys2Proof.core 2 s = .next t :=
  (run_succ_of_step (M := Sys2Proof.core) hsu 1).trans (run_succ_of_step (M := Sys2Proof.core) hut 0)

/-- Settles O36: one step is the reset, which leaves an idle edge, and the next step ends that edge. -/
theorem resetEdgeLosesEveryOtherEvent : Obligations.ResetEdgeLosesEveryOtherEvent := by
  intro s c rest hi hrst
  have hreset : step s = .next (resetAll (withInputs (PortCycle.idle :: rest) s)) :=
    step_of_nextEvent hi (nextEvent_of_rst hrst s)
  have hover : step (resetAll (withInputs (PortCycle.idle :: rest) s)) = .next (resetAll (withInputs rest s)) :=
    step_of_edge_over rfl rfl
  exact ⟨resetAll (withInputs rest s), run_two_of_steps hreset hover, exec_of_effect (.reset (withInputs rest s))⟩

end Sys2Proof.Machine
end

section
/-! The encoder undoes the decoder, so that the port events are the well-formed operations the receiver's state selects, one for
one (30_encoding.md section 1, R55 to R62; 20_memory.md R42). -/

namespace Sys2Proof

/-! ### A decoded operation is well-formed -/

theorem decodeLegalCmd_wellFormed (a op : Nibble) : (decodeLegalCmd a op).wellFormed = true := by
  unfold decodeLegalCmd; split <;> rfl

theorem decodeReservedCmd_wellFormed (z : BitVec 24) (a op : Nibble) : (decodeReservedCmd z a op).wellFormed = true := by
  unfold decodeReservedCmd; split <;> rfl

theorem decodeCmd_wellFormed (v : Word) : (decodeCmd v).wellFormed = true := by
  unfold decodeCmd
  split_ifs with _ hm
  · exact decodeReservedCmd_wellFormed _ _ _
  · exact hm
  · exact decodeLegalCmd_wellFormed _ _

theorem decodeWrite_wellFormed (addr : WordAddr) (v : Word) : (decodeWrite addr v).wellFormed = true := by
  cases hrow : writeHasRow addr with
  | false => rw [decodeWrite_of_no_row v hrow, Instr.wellFormed, hrow]; rfl
  | true =>
    unfold decodeWrite
    split
    case h_2 => exact decodeCmd_wellFormed v
    case h_8 => simp_all [writeHasRow]
    all_goals rfl

theorem decodeRead_wellFormed (addr : WordAddr) : (decodeRead addr).wellFormed = true := by
  unfold decodeRead
  split_ifs with hlt hck
  · rfl
  · simp [Instr.wellFormed, readIsReg, hlt, hck]
  · rfl

theorem decodeRxByte_wellFormed (st : RxState) (m : SyncMode) (b : Byte) : (decodeRxByte st m b).wellFormed = true := by
  cases st with
  | hunt => cases m <;> rfl
  | idle | accum | done | error => rfl

theorem decodeEvent_wellFormed (st : RxState) (m : SyncMode) (e : PortEvent) : (decodeEvent st m e).wellFormed = true := by
  cases e with
  | access a =>
    cases a with
    | read addr => exact decodeRead_wellFormed addr
    | write addr v => exact decodeWrite_wellFormed addr v
  | rxByte b => exact decodeRxByte_wellFormed st m b
  | txTake | rxTimeout | reset => rfl

/-! ### CMD words -/

theorem encodeCmd_eq_of_op_toNat {op op' : Nibble} (h : op.toNat = op'.toNat) (z : BitVec 24) (a : Nibble) :
    encodeCmd z a op' = encodeCmd z a op :=
  congrArg (encodeCmd z a) (BitVec.eq_of_toNat_eq h).symm

/-- Only RX_ARM_OP, DECODE and SOFT_RESET allow an `A` that is not 0 (R57). -/
theorem eq_zero_of_argAllowed {op a : Nibble} (ha : argAllowed op a = true) (h2 : op.toNat ≠ 0x2) (h9 : op.toNat ≠ 0x9)
    (hF : op.toNat ≠ 0xF) : a = 0 := by
  revert op a; decide

/-- The opcodes outside the reserved range 0xA..0xE (R56). -/
theorem toNat_le_or_eq_of_not_opReserved {op : Nibble} (hr : opReserved op = false) : op.toNat ≤ 0x9 ∨ op.toNat = 0xF := by
  have hnot : ¬ (0xA ≤ op.toNat ∧ op.toNat ≤ 0xE) := by rw [← opReserved_iff, hr]; nofun
  omega

theorem encode_decodeReservedCmd {op : Nibble} (hr : opReserved op = true) (z : BitVec 24) (a : Nibble) :
    encode (decodeReservedCmd z a op) = encodeCmd z a op := by
  rw [opReserved_iff] at hr
  unfold decodeReservedCmd
  split
  case h_5 =>
    have hE : op.toNat = 0xE := by grind
    exact encodeCmd_eq_of_op_toNat hE z a
  all_goals exact encodeCmd_eq_of_op_toNat ‹_› z a

/-- A word that passed the checks of R59 is the word of its opcode: its `A` is the operand, or the only one allowed. -/
theorem encode_decodeLegalCmd {a op : Nibble} (hr : opReserved op = false) (ha : argAllowed op a = true) :
    encode (decodeLegalCmd a op) = encodeCmd 0 a op := by
  unfold decodeLegalCmd
  split
  case h_3 hop | h_10 hop => exact encodeCmd_eq_of_op_toNat hop 0 a
  case h_11 =>
    have hF : op.toNat = 0xF := by have := toNat_le_or_eq_of_not_opReserved hr; grind
    obtain rfl : op = 0xF := BitVec.eq_of_toNat_eq hF
    obtain rfl : a = 0xF := of_decide_eq_true ha
    rfl
  all_goals
    rw [eq_zero_of_argAllowed ha (by omega) (by omega) (by omega)]
    exact encodeCmd_eq_of_op_toNat ‹_› 0 0

theorem eq_zero_and_argAllowed_of_not_malformedCmd {z : BitVec 24} {a op : Nibble} (hr : opReserved op = false)
    (hm : ¬ malformedCmd z a op = true) : z = 0 ∧ argAllowed op a = true := by
  rw [malformedCmd_iff hr] at hm
  simpa using hm

/-- Every CMD word is the word of its own row (R55 to R59). -/
theorem encode_decodeCmd (v : Word) : encode (decodeCmd v) = .access (.write addrCmd v) := by
  suffices h : encode (decodeCmd v) = encodeCmd (cmdZ v) (cmdA v) (cmdOp v) by rw [h, encodeCmd, cmdWord_fields]
  unfold decodeCmd
  split_ifs with hr hm
  · exact encode_decodeReservedCmd hr _ _
  · rfl
  · have hr : opReserved (cmdOp v) = false := Bool.eq_false_of_not_eq_true hr
    obtain ⟨hz, ha⟩ := eq_zero_and_argAllowed_of_not_malformedCmd hr hm
    rw [hz]
    exact encode_decodeLegalCmd hr ha

/-! ### Offsets -/

theorem access_write_eq_of_toNat {addr addr' : WordAddr} (h : addr.toNat = addr'.toNat) (v : Word) :
    PortEvent.access (.write addr' v) = .access (.write addr v) :=
  congrArg (fun x => PortEvent.access (.write x v)) (BitVec.eq_of_toNat_eq h).symm

/-- An offset in the FB window is the one of its word index (20_memory.md R42). -/
theorem fbAddr_of_le {addr : WordAddr} (h : 0x40 ≤ addr.toNat) : (1 : BitVec 1) ++ addr.extractLsb' 0 6 = addr := by
  have := addr.isLt
  apply BitVec.eq_of_toNat_eq
  rw [fbAddr_toNat, BitVec.extractLsb'_toNat, Nat.shiftRight_zero]
  omega

theorem encode_decodeWrite (addr : WordAddr) (v : Word) : encode (decodeWrite addr v) = .access (.write addr v) := by
  unfold decodeWrite
  split
  case h_2 haddr => exact (encode_decodeCmd v).trans (access_write_eq_of_toNat haddr v)
  case h_8 => rfl
  all_goals exact access_write_eq_of_toNat ‹_› v

theorem encode_decodeRead (addr : WordAddr) : encode (decodeRead addr) = .access (.read addr) := by
  unfold decodeRead
  split_ifs with hlt hck
  · obtain rfl : addr = 0x08 := BitVec.eq_of_toNat_eq hck
    rfl
  · rfl
  · rw [encode, fbAddr_of_le (Nat.le_of_not_lt hlt)]

/-! ### Every event -/

theorem encode_decodeRxByte (st : RxState) (m : SyncMode) (b : Byte) : encode (decodeRxByte st m b) = .rxByte b := by
  cases st with
  | hunt => cases m <;> rfl
  | idle | accum | done | error => rfl

/-- R55 to R62: a port event is the encoding of the operation it decodes to. -/
theorem encode_decodeEvent (st : RxState) (m : SyncMode) (e : PortEvent) : encode (decodeEvent st m e) = e := by
  cases e with
  | access a =>
    cases a with
    | read addr => exact encode_decodeRead addr
    | write addr v => exact encode_decodeWrite addr v
  | rxByte b => exact encode_decodeRxByte st m b
  | txTake | rxTimeout | reset => rfl

/-- Settles O1: the decoder undoes the encoder. -/
theorem everyOperationDecodesFromItsEncoding : Obligations.EveryOperationDecodesFromItsEncoding :=
  fun _ _ _ hw hs => decodeEvent_encode hw hs

/-- Settles O2: the encoder undoes the decoder. -/
theorem everyEventIsTheEncodingOfItsOperation : Obligations.EveryEventIsTheEncodingOfItsOperation :=
  encode_decodeEvent

/-- Settles O3: the operation is the one the event decodes to, and any other with that encoding is decoded from it too. -/
theorem everyEventIsExactlyOneOperation : Obligations.EveryEventIsExactlyOneOperation := fun st m e =>
  ⟨decodeEvent st m e, ⟨decodeEvent_wellFormed st m e, decodeEvent_selectedBy st m e, encode_decodeEvent st m e⟩,
    fun _ hw hs he => he ▸ (decodeEvent_encode hw hs).symm⟩

/-- Settles O4: the eight CMD words by their fields `Z`, `A` and `OP` (R55), the other accesses by their offsets, and the byte
by the receiver's state. -/
theorem specWordsDecodeToTheirOperations : Obligations.SpecWordsDecodeToTheirOperations :=
  ⟨decodeCmd_cmdWord 0 0x0 0x0, decodeCmd_cmdWord_rxArmOp 8, decodeCmd_cmdWord 0 0x0 0x6, decodeCmd_cmdWord 0 0x0 0x8,
    Machine.decodeCmd_cmdWord_decode 13, decodeCmd_cmdWord 0 0xF 0xF, decodeCmd_cmdWord 0 0x1 0x0,
    decodeCmd_cmdWord 1 0xF 0x9, rfl, rfl, decodeRead_fbAddr 1, decodeRxByte_of_selectedBy rfl rfl⟩

end Sys2Proof
end
